-- ==== Sys2Proof/Word.lean ====
section
/-! DEFINITION. The words of the Rothel 2640 and the names its manual gives to values: bytes, raw values, record images,
frames, and the operand types of the commands. -/

namespace Sys2Proof

/-- One byte of a frame or of an image (R201). -/
abbrev Byte := BitVec 8

/-- A raw signal value, level or ceiling, 0 to 65535 (00 section 0.6). -/
abbrev Raw := BitVec 16

/-- A 29-bit extended identifier. -/
abbrev Ident := BitVec 29

/-- The image of a record of tables 0, 1, 2, 5, 6: 20 bytes, byte b in bits 8b to 8b + 7 (R182, R201). -/
abbrev Image20 := BitVec 160

/-- The image of a record of tables 3, 4, 7: 4 bytes (R182, R201). -/
abbrev Image4 := BitVec 32

/-- The two CAN ports (chapter 1). -/
inductive Port where
  | cp | bp
  deriving DecidableEq, Repr

/-- The port that is not the arrival port (R28). -/
def Port.other : Port → Port
  | .cp => .bp
  | .bp => .cp

/-- A frame inside the part: identifier, format, data bytes (R1). The length is the number of data bytes, 0 to 8.
A standard identifier stands in the low 11 bits. -/
structure Frame where
  ext : Bool
  ident : Ident
  data : List Byte
  deriving DecidableEq, Repr

/-- TRUE, FALSE or UNKNOWN (R67). -/
inductive Tri where
  | tt | ff | unknown
  deriving DecidableEq, Repr

/-- Freshness of a slot (R45). -/
inductive Freshness where
  | never | fresh | stale
  deriving DecidableEq, Repr

/-- Last writer of a slot (R45). -/
inductive Writer where
  | none
  | line
  | entry (i : Fin 96)
  deriving DecidableEq, Repr

/-- A slot-written or slot-stale event (R57). -/
inductive SlotEvent where
  | written (slot : Fin 32) (value before : Raw) (freshBefore : Freshness) (writer : Writer)
  | stale (slot : Fin 32) (value : Raw)
  deriving DecidableEq, Repr

/-- The slot an event is about. -/
def SlotEvent.slot : SlotEvent → Fin 32
  | .written i _ _ _ _ => i
  | .stale i _ => i

/-- The vehicle mode (R82). -/
inductive Mode where
  | road | parked | pumpStatic | pumpRoll | conflict
  deriving DecidableEq, Repr

/-- The drive channels (R92). -/
inductive Channel where
  | main | roll | aux
  deriving DecidableEq, Repr

/-- The channels in the order in which DRV takes them (R97, R112). -/
def Channel.all : List Channel := [.main, .roll, .aux]

/-- Drive channel states, in the order of R92. -/
inductive DriveState where
  | disengaged | shifting | verifying | engaged | releasing | faulted
  deriving DecidableEq, Repr

/-- Request origin (R92). -/
inductive Origin where
  | signal | management
  deriving DecidableEq, Repr

/-- Reasons of a refused engage request, in the order of R92 and R162. -/
inductive RefuseReason where
  | notPermitted | exclusive | conflict | busy
  deriving DecidableEq, Repr

/-- Causes with which a channel enters RELEASING, in the order of R92. -/
inductive AbortCause where
  | disengage | permitLost | supervision | dryRun
  deriving DecidableEq, Repr

/-- Causes with which a channel enters FAULTED, in the order of R92. -/
inductive FailCause where
  | verifyTimeout | confirmLost | releaseCheck
  deriving DecidableEq, Repr

/-- Last outcome of a channel (R92). -/
inductive DriveOutcome where
  | engaged
  | refused (r : RefuseReason)
  | aborted (c : AbortCause)
  | failed (c : FailCause)
  deriving DecidableEq, Repr

/-- The timer of a channel's state (R96). -/
inductive DriveTimer where
  | settle | verify | release
  deriving DecidableEq, Repr

/-- The three tanks (R119). -/
inductive Tank where
  | water | foamA | foamB
  deriving DecidableEq, Repr

/-- The tanks in record order (R120). -/
def Tank.all : List Tank := [.water, .foamA, .foamB]

/-- Tank bands (R119). -/
inductive Band where
  | empty | low | normal | full | unknown
  deriving DecidableEq, Repr

/-- Sender states (R119). -/
inductive Sender where
  | good | suspect | failed
  deriving DecidableEq, Repr

/-- Level sources (R119). -/
inductive LevelSource where
  | sender | estimate | none
  deriving DecidableEq, Repr

/-- The supply selection (R134). -/
inductive Supply where
  | tank | hydrant
  deriving DecidableEq, Repr

/-- Supervision states (R156). -/
inductive Supervision where
  | disarmed | armed | lapsed
  deriving DecidableEq, Repr

/-- Port states (R11). -/
inductive PortState where
  | active | warn | off
  deriving DecidableEq, Repr

/-- The roles, in the order of table 3 (R55, 11 section 11.3). -/
inductive Role where
  | roadSpeed | parkBrake | intakePressure | levelWater | levelFoamA | levelFoamB
  | reqMain | reqRoll | reqAux | reqTankValve | reqFill
  deriving DecidableEq, Repr

/-- A role's index in table 3. -/
def Role.index : Role → Fin 11
  | .roadSpeed => 0
  | .parkBrake => 1
  | .intakePressure => 2
  | .levelWater => 3
  | .levelFoamA => 4
  | .levelFoamB => 5
  | .reqMain => 6
  | .reqRoll => 7
  | .reqAux => 8
  | .reqTankValve => 9
  | .reqFill => 10

/-- The 18 exception classes (R162). -/
inductive ExcClass where
  | storeFault | modeConflict | supervisionLost | dryRun | engageFailed | engageLost | releaseFailed | portOff
  | senderFailed | lockout | staleGate | permitLost | engageRefused | fillRefused | holdDiscard | txDiscard
  | fieldRange | portWarn
  deriving DecidableEq, Repr

/-- Reasons of ENGAGE_REFUSED, HOLD_DISCARD and TX_DISCARD (R162). -/
inductive Reason where
  | notPermitted | exclusive | conflict | busy
  | overflow | expired | purged
  | portOff | full | stale
  deriving DecidableEq, Repr

/-- A raise as a block delivers it to EXC (R162). -/
structure Raise where
  cls : ExcClass
  mode : Mode
  port : Option Port := none
  frame : Option Frame := none
  entry : Option (Fin 96) := none
  term : Option (Fin 24) := none
  channel : Option Channel := none
  tank : Option Tank := none
  reason : Option Reason := none
  deriving DecidableEq, Repr

/-- A delivery of a held input to CSU (R148). -/
inductive CsuInput where
  | mode (m : Mode)
  | drive (c : Channel) (st : DriveState)
  | supply (v : Supply)
  | waterBand (b : Band)
  deriving DecidableEq, Repr

/-- A request to queue a forwarded frame: the frame, its arrival port, the FRT entry index where given and the
coalescing mark (R6, R28). -/
structure ForwardRequest where
  frame : Frame
  arrival : Port
  entry : Option (Fin 96)
  mark : Bool
  deriving DecidableEq, Repr

/-- The blocks that take events which another block delivers (R57, R79, R95, R155, R162). -/
inductive Block where
  | fre | ilk | drv | tnk | csu | exc
  deriving DecidableEq, Repr

/-- The arrival of a frame: the port on which it completes, the time at which it began on that port's bus (R13), and the order
in which the blocks take what it delivers in several steps, which the rules leave open (R57, R99, R192): the k-th list names the
blocks that take deliveries, one after the other, right after the frame's k-th extraction write (log 11), or after the k-th of
the steps of EXC, FRE, SIG, TNK, ILK and CSU where the frame is a COMMIT, as far as the rules let them there (log 12). -/
structure Arrival where
  port : Port
  begun : Nat
  order : List (List Block) := []
  deriving DecidableEq, Repr

/-- A management request of 8 bytes as it arrives: tag (byte 1) and operand bytes 2 to 7. The code, byte 0, is the command's
own (11 section 11.1). -/
structure Request extends Arrival where
  tag : Byte := 0
  b2 : Byte := 0
  b3 : Byte := 0
  b4 : Byte := 0
  b5 : Byte := 0
  b6 : Byte := 0
  b7 : Byte := 0
  deriving DecidableEq, Repr

end Sys2Proof
end

