-- ==== Sys2Proof/Syntax.lean ====
section
/-! DEFINITION. The commands of the block: one constructor per row of spec/opcode_table.json, in the table's order. -/

namespace Sys2Proof

/-- The commands. The rule of each row stands in its docstring. -/
inductive Instr where
  /-- REMOTE_FRAME (R1): a remote request frame completes on a port. -/
  | remoteFrame (p : Port) (ext : Bool) (ident : Ident)
  /-- START_FRAME_DISCARD (R2): a frame completes on a port during START. -/
  | startFrameDiscard (p : Port) (f : Frame)
  /-- STANDARD_FRAME (R4): a frame with an 11-bit identifier completes on a port. -/
  | standardFrame (a : Arrival) (ident : BitVec 11) (data : List Byte)
  /-- FRAME_HANDLED_BY_FRE (R22): a frame with a 29-bit identifier completes on a port. -/
  | frameHandledByFre (a : Arrival) (ident : Ident) (data : List Byte)
  /-- BAD_REQUEST_FRAME (R179): a frame with identifier MGMT_BASE and these data bytes completes on a port. -/
  | badRequestFrame (a : Arrival) (data : List Byte)
  /-- READ_STATUS (R181), code 0x01. -/
  | readStatus (r : Request)
  /-- READ_SIGNAL (R66), code 0x02. -/
  | readSignal (r : Request)
  /-- READ_ACTIVE (R183), code 0x03. -/
  | readActive (r : Request)
  /-- READ_SHADOW (R183), code 0x04. -/
  | readShadow (r : Request)
  /-- WRITE_SHADOW (R184), code 0x05. -/
  | writeShadow (r : Request)
  /-- REVERT_SHADOW (R185), code 0x06. -/
  | revertShadow (r : Request)
  /-- COMMIT (R186), code 0x07. -/
  | commit (r : Request)
  /-- SAVE (R199), code 0x08. -/
  | save (r : Request)
  /-- READ_EVENT (R173), code 0x09. -/
  | readEvent (r : Request)
  /-- READ_CAPTURE (R174), code 0x0A. -/
  | readCapture (r : Request)
  /-- CLEAR_EXCEPTIONS (R175), code 0x0B. -/
  | clearExceptions (r : Request)
  /-- CLEAR_CAPTURE (R176), code 0x0C. -/
  | clearCapture (r : Request)
  /-- DRIVE_COMMAND (R115), code 0x0D. -/
  | driveCommand (r : Request)
  /-- VALVE_COMMAND (R144), code 0x0E. -/
  | valveCommand (r : Request)
  /-- READ_RESET_CAUSE (R195), code 0x0F. -/
  | readResetCause (r : Request)
  /-- RESET_PART (R196), code 0x10. -/
  | resetPart (r : Request)
  /-- QUEUE_FORWARDED_FRAME (R6): a request to queue a forwarded frame reaches port p. -/
  | queueForwardedFrame (p : Port) (q : ForwardRequest)
  /-- QUEUE_PART_ORIGINATED_FRAME (R7): a request to queue a response or notice reaches port p. -/
  | queuePartOriginatedFrame (p : Port) (f : Frame)
  /-- TRANSMIT_ATTEMPT_END (R9): the attempt for port p's in-flight frame ends. -/
  | transmitAttemptEnd (p : Port) (success : Bool)
  /-- AGE_DEADLINE_EXPIRY (R10): the i-th waiting frame of port p, counted oldest first from 0, reaches its deadline. -/
  | ageDeadlineExpiry (p : Port) (i : Nat)
  /-- RECOVERY_TIMER_EXPIRY (R13). -/
  | recoveryTimerExpiry (p : Port)
  /-- TERM_RISE_AT_FRE (R38): FRE takes a rise of term t. -/
  | termRiseAtFre (t : Fin 24)
  /-- TERM_FALL_AT_FRE (R38): FRE takes a fall of term t. -/
  | termFallAtFre (t : Fin 24)
  /-- HOLD_DEADLINE_EXPIRY (R39): the held frame with this identifier reaches its deadline. -/
  | holdDeadlineExpiry (ident : Ident)
  /-- CEILING_FALL (R43): FRE takes a ceiling fall. -/
  | ceilingFall
  /-- STALE_TIMER_EXPIRY (R47). -/
  | staleTimerExpiry (slot : Fin 32)
  /-- SWITCH_LEVEL_CHANGE (R59): the line of a switch input changes to this level. -/
  | switchLevelChange (sw : Fin 6) (high : Bool)
  /-- DEBOUNCE_EXPIRY (R59). -/
  | debounceExpiry (sw : Fin 6)
  /-- PULSE_EDGE (R64): a rising edge of a pulse input. -/
  | pulseEdge (pi : Fin 4)
  /-- WINDOW_EXPIRY (R63). -/
  | windowExpiry (pi : Fin 4)
  /-- VOLUME_UNIT (R129): TNK takes a volume unit for a tank. -/
  | volumeUnit (k : Tank)
  /-- ILK_SLOT_EVENT (R71): ILK takes a slot event. -/
  | ilkSlotEvent (e : SlotEvent)
  /-- ILK_DRIVE_STATE_CHANGE (R86): ILK takes a state change of a channel. -/
  | ilkDriveStateChange (c : Channel)
  /-- ILK_BAND_CHANGE (R77): ILK takes a band change of a tank. -/
  | ilkBandChange (k : Tank)
  /-- ILK_SUPPLY_CHANGE (R77): ILK takes a change of the supply. -/
  | ilkSupplyChange
  /-- DRV_SLOT_EVENT (R97): DRV takes a slot event. -/
  | drvSlotEvent (e : SlotEvent)
  /-- PERMIT_TERM_FALL (R110): DRV takes a fall of term t. -/
  | permitTermFall (t : Fin 24)
  /-- PERMIT_TERM_RISE (R111): DRV takes a rise of term t. -/
  | permitTermRise (t : Fin 24)
  /-- SUPERVISION_LAPSE (R112): DRV takes a supervision lapse. -/
  | supervisionLapse
  /-- RUN_DRY_REQUEST (R113): DRV takes a run-dry request for a channel. -/
  | runDryRequest (c : Channel)
  /-- SETTLE_EXPIRY (R102). -/
  | settleExpiry (c : Channel)
  /-- VERIFY_EXPIRY (R106). -/
  | verifyExpiry (c : Channel)
  /-- RELEASE_EXPIRY (R109). -/
  | releaseExpiry (c : Channel)
  /-- TNK_SLOT_EVENT (R143): TNK takes a slot event. -/
  | tnkSlotEvent (e : SlotEvent)
  /-- TNK_DRIVE_STATE_CHANGE (R137): TNK takes a state change of a channel. -/
  | tnkDriveStateChange (c : Channel) (st : DriveState)
  /-- RUN_DRY_EXPIRY (R142). -/
  | runDryExpiry
  /-- CSU_INPUT_DELIVERY (R148): CSU takes a delivered input. -/
  | csuInputDelivery (d : CsuInput)
  /-- HEARTBEAT (R156): CSU takes a heartbeat. -/
  | heartbeat
  /-- SUPERVISION_TIMER_EXPIRY (R157). -/
  | supervisionTimerExpiry
  /-- RAMP_EXPIRY (R152). -/
  | rampExpiry
  /-- EXCEPTION_RAISE (R163): EXC takes a raise. -/
  | exceptionRaise (r : Raise)
  /-- POWER_ON (R194): the supply rises into its range. -/
  | powerOn
  /-- POWER_FAIL (R194): the supply drops below its range. -/
  | powerFail
  /-- RESET_LINE (R194): the reset line goes low. -/
  | resetLine
  /-- RESET_LINE_RELEASE (R197): the reset line rises. -/
  | resetLineRelease
  /-- STORE_READ_COMPLETION (R197): the store read ends; readGood is false where the store reports it failed. -/
  | storeReadCompletion (readGood : Bool)
  /-- STORE_READ_TIMEOUT (R197): 40 ms have passed since the store read began. -/
  | storeReadTimeout
  /-- SAVE_COMPLETION (R200): the save ends; whether the store reports every write done, and whether the CRC read back
  holds. -/
  | saveCompletion (writesDone checkHolds : Bool)
  deriving DecidableEq, Repr

end Sys2Proof
end

