-- ==== Sys2Proof/Config.lean ====
section
/-! DEFINITION. What the manual leaves open: the free values. Each is an opaque constant, so nothing that is proved can
depend on what it is. -/

namespace Sys2Proof

/-- Free value (log 15): the bits of a response that stand for a value that is absent. The argument is the counter of
State, so each response draws its own. -/
opaque Config.absentBits : Nat → BitVec 64

/-- Free value (log 16): the identifier MGMT_BASE + k where the sum passes 29 bits. -/
opaque Config.identPastEnd : Ident → Nat → Ident

/-- Free value (log 17): whether a request of this code, with operands that call for BAD_INDEX and for BAD_REQUEST at
once, is answered BAD_INDEX. -/
opaque Config.badIndexFirst : Byte → Bool

/-- Forwarded share of a transmit queue (R5). -/
def Config.forwardedShare : Nat := 14

/-- Part-originated share of a transmit queue (R5). -/
def Config.partShare : Nat := 2

/-- Fault count at which a port enters OFF (R11, R12). -/
def Config.offCount : Nat := 256

/-- Fault count from which a port is in WARN (R11). -/
def Config.warnCount : Nat := 96

/-- Holders of the Hold Buffer (R34). -/
def Config.holders : Nat := 8

/-- Longest time of a store read, ms (R197). -/
def Config.storeReadLimit : Nat := 40

end Sys2Proof
end

