-- ==== Sys2Proof/Machine/Tables.lean ====
section
/-! DEFINITION. The eight tables as images, and every field of their layouts (11 sections 11.3 and 11.4, R201, R203): bit
and byte access, records of tables 0 to 6, parameters, reading and writing one part, and the fallback configuration
(R198). -/

namespace Sys2Proof.Machine

/-- A set of the eight tables (R182). -/
structure Tables where
  frt : Vector Image20 96
  rtt : Vector Image20 16
  itt : Vector Image20 24
  roles : Vector Image4 11
  slots : Vector Image4 32
  drives : Vector Image20 3
  tanks : Vector Image20 3
  params : Vector Image4 24
  deriving DecidableEq, Repr

/-- Bits lo to lo + len - 1 of an image, as a number. -/
def field {n : Nat} (img : BitVec n) (lo len : Nat) : Nat := img.toNat / 2 ^ lo % 2 ^ len

/-- Byte b of an image (R201). -/
def byteOf {n : Nat} (img : BitVec n) (b : Nat) : Nat := field img (8 * b) 8

/-- The 16-bit number at bytes b and b + 1, least significant byte first (R201). -/
def rawOf {n : Nat} (img : BitVec n) (b : Nat) : Raw := img.extractLsb' (8 * b) 16

/-- The tag of a tagged record (R202). -/
inductive Tag where
  | empty | valid | rejected | undefined
  deriving DecidableEq, Repr

/-- Tag codes: 0 EMPTY, 1 VALID, 2 REJECTED (R202). -/
def tagOf (img : Image20) : Tag :=
  match byteOf img 0 with
  | 0 => .empty
  | 1 => .valid
  | 2 => .rejected
  | _ => .undefined

/-- The record is in use. -/
def isValid (img : Image20) : Bool := tagOf img == .valid

/-- A term index with its present bit: bits lo to lo + 4, present at bit lo + 7. -/
def optTerm (img : Image20) (lo : Nat) : Option (Fin 24) :=
  if img.getLsbD (lo + 7) then
    (if h : field img lo 5 < 24 then some ⟨field img lo 5, h⟩ else none)
  else none

/-- A template index with its present bit. -/
def optTemplate (img : Image20) (lo : Nat) : Option (Fin 16) :=
  if img.getLsbD (lo + 7) then some (Fin.ofNat 16 (field img lo 4)) else none

/-- A slot index with its present bit. -/
def optSlot (img : Image20) (lo : Nat) : Option (Fin 32) :=
  if img.getLsbD (lo + 7) then some (Fin.ofNat 32 (field img lo 5)) else none

/-! Table 0, FRT (R18). -/

/-- FRT actions (R18). -/
inductive Action where
  | pass | drop | gate | hold
  deriving DecidableEq, Repr

/-- The port selector claims arrival port p (R18). Code 3 is undefined and claims none. -/
def frtPortOk (img : Image20) (p : Port) : Bool :=
  match field img 8 2, p with
  | 0, .cp => true
  | 1, .bp => true
  | 2, _ => true
  | _, _ => false

/-- Action of an FRT entry. -/
def frtAction (img : Image20) : Action :=
  match field img 10 2 with
  | 0 => .pass
  | 1 => .drop
  | 2 => .gate
  | _ => .hold

/-- Report flag. -/
def frtReport (img : Image20) : Bool := img.getLsbD 12
/-- Coalesce flag. -/
def frtCoalesce (img : Image20) : Bool := img.getLsbD 13
/-- Heartbeat flag. -/
def frtHeartbeat (img : Image20) : Bool := img.getLsbD 14
/-- Gate term. -/
def frtTerm (img : Image20) : Option (Fin 24) := optTerm img 16
/-- Hold time in ms. -/
def frtHoldTime (img : Image20) : Nat := byteOf img 3 * 10
/-- Identifier value. -/
def frtValue (img : Image20) : Ident := img.extractLsb' 32 29
/-- Identifier mask. -/
def frtMask (img : Image20) : Ident := img.extractLsb' 64 29
/-- Open template. -/
def frtOpen (img : Image20) : Option (Fin 16) := optTemplate img 96
/-- Closed template. -/
def frtClosed (img : Image20) : Option (Fin 16) := optTemplate img 104

/-- One extraction (R18, R49). -/
structure Extraction where
  slot : Fin 32
  start : Nat
  len : Nat
  deriving DecidableEq, Repr

/-- The extraction whose two bytes begin at bit lo. -/
def extractionAt (img : Image20) (lo : Nat) : Extraction :=
  { slot := Fin.ofNat 32 (field img lo 5), start := field img (lo + 5) 6, len := field img (lo + 11) 4 + 1 }

/-- Extraction list of an FRT entry, in list order. -/
def frtExtractions (img : Image20) : List Extraction :=
  match byteOf img 14 with
  | 0 => []
  | 1 => [extractionAt img 128]
  | _ => [extractionAt img 128, extractionAt img 144]

/-- The entry claims a frame with this identifier on arrival port p (R19). -/
def frtClaims (img : Image20) (p : Port) (id : Ident) : Bool :=
  isValid img && frtPortOk img p && (id &&& frtMask img) == (frtValue img &&& frtMask img)

/-- The frame's entry: the first VALID entry, in rising index order, that claims it (R19). -/
def Tables.lookup (t : Tables) (p : Port) (id : Ident) : Option (Fin 96) :=
  (List.finRange 96).find? fun i => frtClaims (t.frt.get i) p id

/-! Table 1, RTT (R29). -/

/-- A patch of a template (R29). -/
structure Patch where
  clamp : Bool
  start : Nat
  len : Nat
  const : Nat
  deriving DecidableEq, Repr

/-- The patch whose four bytes begin at bit lo. -/
def patchAt (img : Image20) (lo : Nat) : Patch :=
  { clamp := img.getLsbD (lo + 23), start := field img (lo + 16) 6, len := field img (lo + 24) 4 + 1,
    const := field img lo 16 }

/-- Patches of a template, in number order. -/
def rttPatches (img : Image20) : List Patch :=
  [patchAt img 64, patchAt img 96, patchAt img 128].take (field img 10 2)

/-- Reissue flag. -/
def rttReissue (img : Image20) : Bool := img.getLsbD 8

/-- Identifier replacement. -/
def rttReplacement (img : Image20) : Option Ident :=
  if img.getLsbD 9 then some (img.extractLsb' 32 29) else none

/-! Table 2, ITT (R67 to R69, R203). -/

/-- Relations of a SIGNAL condition (R68). -/
inductive Rel where
  | lt | ge | eq | ne | inside
  deriving DecidableEq, Repr

/-- A condition of a term (R68, R69). lo holds the threshold of LT, GE, EQ and NE. -/
inductive Cond where
  | signal (slot : Fin 32) (rel : Rel) (lo h hi : Raw)
  | mode (set : BitVec 5)
  | drive (c : Channel) (set : BitVec 6)
  | band (k : Tank) (set : BitVec 5)
  | supply (v : Supply)
  | term (t : Fin 24)
  deriving DecidableEq, Repr

/-- Relation codes (R203). -/
def relOf : Nat → Option Rel
  | 0 => some .lt
  | 1 => some .ge
  | 2 => some .eq
  | 3 => some .ne
  | 4 => some .inside
  | _ => none

/-- Channel numbers 0 MAIN, 1 ROLL, 2 AUX. -/
def channelOf : Nat → Option Channel
  | 0 => some .main
  | 1 => some .roll
  | 2 => some .aux
  | _ => none

/-- Tank numbers 0 WATER, 1 FOAM_A, 2 FOAM_B. -/
def tankOf : Nat → Option Tank
  | 0 => some .water
  | 1 => some .foamA
  | 2 => some .foamB
  | _ => none

/-- A SIGNAL condition at byte pos: 6 bytes, or 8 for INSIDE (R203). -/
def parseSignal (img : Image20) (pos : Nat) : Option (Cond × Nat) :=
  (relOf (byteOf img (pos + 1))).map fun r =>
    (.signal (Fin.ofNat 32 (byteOf img pos / 8)) r (rawOf img (pos + 2)) (rawOf img (pos + 4))
        (if r = .inside then rawOf img (pos + 6) else 0),
      if r = .inside then pos + 8 else pos + 6)

/-- The condition whose head byte is at byte pos, and the byte after it; absent for an undefined code (R202, R203). Set
bits beyond the defined members are treated as 0 (R201). -/
def parseCond (img : Image20) (pos : Nat) : Option (Cond × Nat) :=
  let head := byteOf img pos
  match head % 8 with
  | 0 => parseSignal img pos
  | 1 => some (.mode (BitVec.ofNat 5 (head / 8)), pos + 1)
  | 2 => (channelOf (head / 8 % 4)).map fun c => (.drive c (BitVec.ofNat 6 (byteOf img (pos + 1))), pos + 2)
  | 3 => (tankOf (head / 8 % 4)).map fun k => (.band k (BitVec.ofNat 5 (byteOf img (pos + 1))), pos + 2)
  | 4 => some (.supply (if head / 8 % 2 = 0 then .tank else .hydrant), pos + 1)
  | 5 => if h : head / 8 < 24 then some (.term ⟨head / 8, h⟩, pos + 1) else none
  | _ => none

/-- Reads count conditions from byte pos on; absent where a code is undefined or a condition runs past byte 19 (R203). -/
def parseConds (img : Image20) : Nat → Nat → Option (List Cond)
  | 0, _ => some []
  | n + 1, pos =>
    match parseCond img pos with
    | none => none
    | some (c, next) =>
      if next ≤ 20 then (parseConds img n next).map (c :: ·) else none

/-- The condition list of an ITT image, if it is one. -/
def ittParse (img : Image20) : Option (List Cond) := parseConds img (field img 9 2 + 1) 2

/-- The condition list of an ITT image. -/
def ittConds (img : Image20) : List Cond := (ittParse img).getD []

/-- Combiner ANY (bit set) or ALL (clear). -/
def ittAny (img : Image20) : Bool := img.getLsbD 8

/-! Table 3, role map (R55). -/

/-- The slot a role is bound to; absent for NONE. -/
def Tables.role (t : Tables) (r : Role) : Option (Fin 32) :=
  let b := byteOf (t.roles.get r.index) 0
  if h : b < 32 then some ⟨b, h⟩ else none

/-- Role r is bound to slot i. -/
def Tables.bound (t : Tables) (r : Role) (i : Fin 32) : Bool := t.role r == some i

/-! Table 4, slot configuration (R53). -/

/-- Pulse modes (R53). Code 3 is undefined and passes no commit; it is read as OFF. -/
inductive PulseMode where
  | off | speed | count
  deriving DecidableEq, Repr

/-- Stale time of an extraction slot in ms; 0 for a line slot, which has none (R45, R53). -/
def Tables.staleTime (t : Tables) (i : Fin 32) : Nat :=
  if i.val < 10 then 0 else byteOf (t.slots.get i) 0 * 10

/-- Slot of a switch input. -/
def switchSlot (sw : Fin 6) : Fin 32 := ⟨sw.val, by omega⟩

/-- Slot of a pulse input. -/
def pulseSlot (pi : Fin 4) : Fin 32 := ⟨pi.val + 6, by omega⟩

/-- Debounce time of a switch input in ms. -/
def Tables.debounce (t : Tables) (sw : Fin 6) : Nat := byteOf (t.slots.get (switchSlot sw)) 0

/-- Inversion of a switch input. -/
def Tables.inverted (t : Tables) (sw : Fin 6) : Bool := (t.slots.get (switchSlot sw)).getLsbD 8

/-- Mode of a pulse input. -/
def Tables.pulseMode (t : Tables) (pi : Fin 4) : PulseMode :=
  match field (t.slots.get (pulseSlot pi)) 26 2 with
  | 1 => .speed
  | 2 => .count
  | _ => .off

/-- Window of a pulse input in ms. -/
def Tables.window (t : Tables) (pi : Fin 4) : Nat := field (t.slots.get (pulseSlot pi)) 16 10

/-- Divisor N of a pulse input. -/
def Tables.divisor (t : Tables) (pi : Fin 4) : Nat := field (t.slots.get (pulseSlot pi)) 0 16

/-- Bound tank of a pulse input; absent for NONE. -/
def Tables.boundTank (t : Tables) (pi : Fin 4) : Option Tank := tankOf (field (t.slots.get (pulseSlot pi)) 28 2)

/-! Table 5, drive configuration (R93). -/

/-- A channel's index in table 5. -/
def channelIndex : Channel → Fin 3
  | .main => 0
  | .roll => 1
  | .aux => 2

/-- A drive record as the channel works by it. -/
structure DriveCfg where
  permit : Option (Fin 24)
  releaseOnLoss : Bool
  confirm : Option (Fin 32)
  level : Nat
  speeds : Option (Fin 32 × Fin 32)
  low : Nat
  high : Nat
  settle : Nat
  verify : Nat
  release : Nat
  deriving DecidableEq, Repr

/-- The defaults a channel with an EMPTY record works by (R93). -/
def defaultDrive (c : Channel) : DriveCfg :=
  { permit := none, releaseOnLoss := c != .main, confirm := none, level := 1, speeds := none, low := 0, high := 65535,
    settle := 500, verify := 3000, release := 500 }

/-- Speed slots: both present, or none. -/
def driveSpeeds (img : Image20) : Option (Fin 32 × Fin 32) :=
  match optSlot img 32, optSlot img 40 with
  | some i, some o => some (i, o)
  | _, _ => none

/-- Confirm switch slot: 3 bits. -/
def driveConfirm (img : Image20) : Option (Fin 32) :=
  if img.getLsbD 17 then some (Fin.ofNat 32 (field img 19 3)) else none

/-- A drive record's fields. -/
def driveOfImage (img : Image20) : DriveCfg :=
  { permit := optTerm img 8, releaseOnLoss := img.getLsbD 16, confirm := driveConfirm img, level := field img 18 1,
    speeds := driveSpeeds img, low := field img 64 16, high := field img 80 16, settle := field img 96 16,
    verify := field img 112 16, release := field img 128 16 }

/-- The record a channel works by: its VALID record, or the defaults (R93). -/
def Tables.drive (t : Tables) (c : Channel) : DriveCfg :=
  let img := t.drives.get (channelIndex c)
  if isValid img then driveOfImage img else defaultDrive c

/-! Table 6, tank configuration (R120). -/

/-- A tank's index in table 6. -/
def tankIndex : Tank → Fin 3
  | .water => 0
  | .foamA => 1
  | .foamB => 2

/-- A tank's LEVEL role. -/
def tankRole : Tank → Role
  | .water => .levelWater
  | .foamA => .levelFoamA
  | .foamB => .levelFoamB

/-- A tank record's fields. -/
structure TankCfg where
  lowAt : Nat
  normalAt : Nat
  fullAt : Nat
  hyst : Nat
  capacity : Nat
  limit : Nat
  flow : Option (Fin 4)
  deriving DecidableEq, Repr

/-- The fields of a tank image. -/
def tankOfImage (img : Image20) : TankCfg :=
  { lowAt := field img 32 16, normalAt := field img 48 16, fullAt := field img 64 16, hyst := field img 16 16,
    capacity := field img 80 16, limit := field img 96 16,
    flow := if img.getLsbD 15 then some (Fin.ofNat 4 (field img 8 2)) else none }

/-- The record of a tank. -/
def Tables.tank (t : Tables) (k : Tank) : TankCfg := tankOfImage (t.tanks.get (tankIndex k))

/-- A tank is in service while its record is VALID and its LEVEL role is bound (R120). -/
def Tables.inService (t : Tables) (k : Tank) : Bool :=
  isValid (t.tanks.get (tankIndex k)) && (t.role (tankRole k)).isSome

/-! Table 7, parameters (11 section 11.4). -/

/-- Parameter n as a number. -/
def Tables.param (t : Tables) (n : Fin 24) : Nat := (t.params.get n).toNat

/-- MGMT_BASE: the identifier in bits 0 to 28 (R201). -/
def Tables.mgmtBase (t : Tables) : Ident := (t.params.get 2).extractLsb' 0 29

/-- MGMT_BASE + k; past 29 bits it is a free value (log 16). -/
def Tables.mgmtIdent (t : Tables) (k : Nat) : Ident :=
  if t.mgmtBase.toNat + k < 2 ^ 29 then t.mgmtBase + BitVec.ofNat 29 k else Config.identPastEnd t.mgmtBase k

/-- MGMT_PORTS allows port p (R3). -/
def Tables.mgmtAllows (t : Tables) (p : Port) : Bool :=
  match t.param 3, p with
  | 0, .cp => true
  | 1, .bp => true
  | 2, _ => true
  | _, _ => false

/-- REPORT_PORT; absent for NONE (R171). -/
def Tables.reportPort (t : Tables) : Option Port :=
  match t.param 4 with
  | 0 => some .cp
  | 1 => some .bp
  | _ => none

/-- UNMATCHED_ACTION is PASS (R4, R21). -/
def Tables.unmatchedPass (t : Tables) : Bool := t.param 5 == 0
/-- TX_AGE, ms. -/
def Tables.txAge (t : Tables) : Nat := t.param 6
/-- PORT_RECOVERY, ms. -/
def Tables.portRecovery (t : Tables) : Nat := t.param 7
/-- REISSUE_WINDOW, ms. -/
def Tables.reissueWindow (t : Tables) : Nat := t.param 8
/-- STOP_SPEED. -/
def Tables.stopSpeed (t : Tables) : Nat := t.param 9
/-- STOP_HYST. -/
def Tables.stopHyst (t : Tables) : Nat := t.param 10
/-- ROLL_SPEED_MAX. -/
def Tables.rollSpeedMax (t : Tables) : Nat := t.param 11
/-- SUPPLY_RISE. -/
def Tables.supplyRise (t : Tables) : Nat := t.param 12
/-- SUPPLY_FALL. -/
def Tables.supplyFall (t : Tables) : Nat := t.param 13
/-- IDLE_CEIL. -/
def Tables.idleCeil (t : Tables) : Raw := (t.params.get 14).extractLsb' 0 16
/-- PUMP_CEIL. -/
def Tables.pumpCeil (t : Tables) : Raw := (t.params.get 15).extractLsb' 0 16
/-- ROLL_CEIL. -/
def Tables.rollCeil (t : Tables) : Raw := (t.params.get 16).extractLsb' 0 16
/-- LOW_TANK_CEIL. -/
def Tables.lowTankCeil (t : Tables) : Raw := (t.params.get 17).extractLsb' 0 16
/-- RAMP_STEP. -/
def Tables.rampStep (t : Tables) : Nat := t.param 18
/-- RAMP_INTERVAL, ms. -/
def Tables.rampInterval (t : Tables) : Nat := t.param 19
/-- SUPERVISION_TIMEOUT, ms. -/
def Tables.supervisionTimeout (t : Tables) : Nat := t.param 20
/-- DRY_TIME in ms: the parameter is in seconds. -/
def Tables.dryTime (t : Tables) : Nat := t.param 21 * 1000
/-- EXCEPTION_MASK: bit n - 1 set masks class n. -/
def Tables.mask (t : Tables) : BitVec 18 := (t.params.get 22).extractLsb' 0 18
/-- NOTICES is ON. -/
def Tables.noticesOn (t : Tables) : Bool := t.param 23 == 1

/-! Parts of images (R182 to R184). -/

/-- Part k of a 20-byte image: bytes 4k to 4k + 3. -/
def partOf (img : Image20) (k : Nat) : Image4 := img.extractLsb' (32 * k) 32

/-- A 20-byte image with part k replaced. -/
def withPart (img : Image20) (k : Nat) (v : Image4) : Image20 :=
  (img &&& ~~~((BitVec.allOnes 32).setWidth 160 <<< (32 * k))) ||| (v.setWidth 160 <<< (32 * k))

/-- The four bytes of a part of a record; absent where the table, index or part does not exist (R183). -/
def Tables.readPart (t : Tables) (tb ix pt : Nat) : Option Image4 :=
  match tb with
  | 0 => if h : ix < 96 ∧ pt < 5 then some (partOf (t.frt[ix]'h.1) pt) else none
  | 1 => if h : ix < 16 ∧ pt < 5 then some (partOf (t.rtt[ix]'h.1) pt) else none
  | 2 => if h : ix < 24 ∧ pt < 5 then some (partOf (t.itt[ix]'h.1) pt) else none
  | 3 => if h : ix < 11 ∧ pt < 1 then some (t.roles[ix]'h.1) else none
  | 4 => if h : ix < 32 ∧ pt < 1 then some (t.slots[ix]'h.1) else none
  | 5 => if h : ix < 3 ∧ pt < 5 then some (partOf (t.drives[ix]'h.1) pt) else none
  | 6 => if h : ix < 3 ∧ pt < 5 then some (partOf (t.tanks[ix]'h.1) pt) else none
  | 7 => if h : ix < 24 ∧ pt < 1 then some (t.params[ix]'h.1) else none
  | _ => none

/-- The tables with a part of a record replaced; absent where the table, index or part does not exist (R184). -/
def Tables.writePart (t : Tables) (tb ix pt : Nat) (v : Image4) : Option Tables :=
  match tb with
  | 0 => if h : ix < 96 ∧ pt < 5 then some { t with frt := t.frt.set ix (withPart (t.frt[ix]'h.1) pt v) h.1 } else none
  | 1 => if h : ix < 16 ∧ pt < 5 then some { t with rtt := t.rtt.set ix (withPart (t.rtt[ix]'h.1) pt v) h.1 } else none
  | 2 => if h : ix < 24 ∧ pt < 5 then some { t with itt := t.itt.set ix (withPart (t.itt[ix]'h.1) pt v) h.1 } else none
  | 3 => if h : ix < 11 ∧ pt < 1 then some { t with roles := t.roles.set ix v h.1 } else none
  | 4 => if h : ix < 32 ∧ pt < 1 then some { t with slots := t.slots.set ix v h.1 } else none
  | 5 =>
    if h : ix < 3 ∧ pt < 5 then some { t with drives := t.drives.set ix (withPart (t.drives[ix]'h.1) pt v) h.1 }
    else none
  | 6 =>
    if h : ix < 3 ∧ pt < 5 then some { t with tanks := t.tanks.set ix (withPart (t.tanks[ix]'h.1) pt v) h.1 }
    else none
  | 7 => if h : ix < 24 ∧ pt < 1 then some { t with params := t.params.set ix v h.1 } else none
  | _ => none

/-- The tagged tables (R182). -/
def taggedTable (tb : Nat) : Bool := tb ≤ 2 || tb == 5 || tb == 6

/-! The fallback configuration (R198). -/

/-- Default slot configuration: debounce 20 ms; divisor 1, window 100 ms, mode OFF, bound tank NONE; stale time 0 (R53). -/
def defaultSlot (i : Fin 32) : Image4 :=
  if i.val < 6 then 20 else if i.val < 10 then BitVec.ofNat 32 (1 + 100 * 2 ^ 16 + 3 * 2 ^ 28) else 0

/-- Parameters of the fallback configuration: the defaults, but UNMATCHED_ACTION DROP and EXCEPTION_MASK 0 (R198, 11
section 11.4). -/
def fallbackParams : Vector Image4 24 :=
  #v[250, 250, 0x0C5A7E00, 1, 1, 1, 50, 500, 300, 20, 10, 160, 300, 200, 700, 2200, 1200, 1400, 50, 100, 500, 30, 0, 1]

/-- The fallback configuration (R198): tagged records EMPTY, roles NONE, slot records at their defaults. That every byte behind
the tag of an EMPTY record is 0 is the model's choice (log 36). -/
def Tables.fallback : Tables :=
  { frt := Vector.replicate 96 0
    rtt := Vector.replicate 16 0
    itt := Vector.replicate 24 0
    roles := Vector.replicate 11 255
    slots := Vector.ofFn defaultSlot
    drives := Vector.replicate 3 0
    tanks := Vector.replicate 3 0
    params := fallbackParams }

end Sys2Proof.Machine
end

