-- ==== Sys2Proof/Machine/Validate.lean ====
section
/-! DEFINITION. The checks of a commit and of the image check: every record of a set of tables judged by its own fields
and by the records it names (R33, R53, R55, R70, R94, R121, R187, R188, R202). -/

namespace Sys2Proof.Machine

/-- An EMPTY record passes; a VALID or REJECTED one is judged by its fields; an undefined tag fails (R187, R202). -/
def judged (img : Image20) (ok : Bool) : Bool :=
  match tagOf img with
  | .empty => true
  | .valid | .rejected => ok
  | .undefined => false

/-- In use at this judgement: VALID, or REJECTED from an earlier COMMIT and judged as VALID (R187). -/
def inUse (img : Image20) : Bool := tagOf img == .valid || tagOf img == .rejected

/-- R70 for one condition of term i; ok tells which lower terms are in use and pass. -/
def condOk (i : Nat) (ok : Nat → Bool) : Cond → Bool
  | .signal _ rel lo _ hi => rel != .inside || lo.toNat ≤ hi.toNat
  | .mode set => set != 0
  | .drive _ set => set != 0
  | .band _ set => set != 0
  | .supply _ => true
  | .term t => t.val < i && ok t.val

/-- R70 for the record of term i. -/
def ittOk (img : Image20) (i : Nat) (ok : Nat → Bool) : Bool :=
  judged img (match ittParse img with
    | none => false
    | some cs => cs.all (condOk i ok))

/-- Which of the terms T0 to T(n-1) pass, judged in rising index order (R70). -/
def ittPasses (t : Tables) : Nat → List Bool
  | 0 => []
  | n + 1 =>
    let before := ittPasses t n
    before ++ [if h : n < 24 then
      ittOk t.itt[n] n (fun j => before.getD j false && (if h' : j < 24 then inUse t.itt[j] else false)) else false]

/-- Term j may be named: it is in use and passes (R187). -/
def termNamed (t : Tables) (passes : List Bool) (j : Fin 24) : Bool := passes.getD j.val false && inUse (t.itt.get j)

/-- Two patches share no bit (R33). -/
def disjoint (a b : Patch) : Bool := a.start + a.len ≤ b.start || b.start + b.len ≤ a.start

/-- No two patches of a list share a bit. -/
def allDisjoint : List Patch → Bool
  | [] => true
  | p :: ps => ps.all (disjoint p) && allDisjoint ps

/-- The number of templates in use that carry the reissue flag (R33). -/
def reissueCount (t : Tables) : Nat := (t.rtt.toList.filter fun img => inUse img && rttReissue img).length

/-- R33 for a template, the reissue count over the table included (R187). -/
def rttOk (t : Tables) (img : Image20) : Bool :=
  judged img
    ((rttPatches img).all (fun p => p.start + p.len ≤ 64) && allDisjoint (rttPatches img) &&
      (match rttReplacement img with
        | none => true
        | some id => id.toNat != t.mgmtBase.toNat && id.toNat != t.mgmtBase.toNat + 1
            && id.toNat != t.mgmtBase.toNat + 2) &&
      (!rttReissue img || reissueCount t ≤ 4))

/-- A template an FRT entry names must be in use and pass (R33, R187). -/
def templateNamed (t : Tables) : Option (Fin 16) → Bool
  | none => true
  | some k => inUse (t.rtt.get k) && rttOk t (t.rtt.get k)

/-- R33 for one extraction. -/
def extractionOk (x : Extraction) : Bool := 10 ≤ x.slot.val && x.start + x.len ≤ 64

/-- R33 for the gate term: asked of GATE and HOLD. That a PASS or DROP entry passes whatever its gate term bits name, although
R187 fails a record that names an EMPTY or failing one, is the model's reading (log 35). -/
def gateTermOk (t : Tables) (passes : List Bool) (img : Image20) : Bool :=
  match frtAction img with
  | .pass | .drop => true
  | .gate | .hold =>
    match frtTerm img with
    | none => false
    | some j => termNamed t passes j

/-- R33 for an FRT entry; the port selector code 3 and an extraction count above 2 are undefined codes (R202). -/
def frtOk (t : Tables) (passes : List Bool) (img : Image20) : Bool :=
  judged img
    (field img 8 2 != 3 && byteOf img 14 ≤ 2 && gateTermOk t passes img
      && templateNamed t (frtOpen img) && templateNamed t (frtClosed img)
      && (frtExtractions img).all extractionOk
      && (frtAction img != .hold || 1 ≤ byteOf img 3))

/-- R55: a slot 0 to 31, or NONE. -/
def roleOk (img : Image4) : Bool := byteOf img 0 < 32 || byteOf img 0 == 255

/-- R53 for the record of slot i. -/
def slotOk (i : Nat) (img : Image4) : Bool :=
  if i < 6 then 1 ≤ byteOf img 0
  else if i < 10 then 1 ≤ field img 0 16 && 10 ≤ field img 16 10 && field img 16 10 ≤ 1000 && field img 26 2 != 3
  else true

/-- R94 for a drive record. -/
def driveOk (t : Tables) (passes : List Bool) (img : Image20) : Bool :=
  judged img
    ((!img.getLsbD 15 || (match optTerm img 8 with
        | none => false
        | some j => termNamed t passes j))
      && (!img.getLsbD 17 || field img 19 3 ≤ 5)
      && (img.getLsbD 39 == img.getLsbD 47)
      && field img 64 16 ≤ field img 80 16
      && 50 ≤ field img 96 16 && field img 96 16 ≤ 5000
      && 100 ≤ field img 112 16 && field img 112 16 ≤ 10000
      && 50 ≤ field img 128 16 && field img 128 16 ≤ 5000)

/-- R121 for the record of tank k; the flow input's slot record must pass as well (R187). -/
def tankOk (t : Tables) (k : Tank) : Bool :=
  let img := t.tanks.get (tankIndex k)
  let c := tankOfImage img
  judged img
    (c.lowAt < c.normalAt && c.normalAt < c.fullAt && 1 ≤ c.capacity
      && (match c.flow with
          | none => true
          | some pi => slotOk (pi.val + 6) (t.slots.get (pulseSlot pi)) && t.pulseMode pi == .count
              && t.boundTank pi == some k))

/-- v lies from lo to hi. -/
def within (lo hi v : Nat) : Bool := lo ≤ v && v ≤ hi

/-- R188 for parameter n. Bits 29 to 31 of MGMT_BASE are not judged (R201, log 18). -/
def paramOk (t : Tables) (n : Fin 24) : Bool :=
  let v := t.param n
  match n.val with
  | 0 | 1 => v == 125 || v == 250 || v == 500
  | 2 => true
  | 3 | 4 => v ≤ 2
  | 5 => v ≤ 1
  | 6 => within 10 1000 v
  | 7 | 8 => within 100 2000 v
  | 9 | 10 | 11 | 12 | 14 => v ≤ 65535
  | 13 => v < t.param 12
  | 15 | 16 | 17 => within (t.param 14) 65535 v
  | 18 => within 1 65535 v
  | 19 => within 20 1000 v
  | 20 => within 100 2550 v
  | 21 => within 5 120 v
  | 22 => v < 2 ^ 18
  | _ => v ≤ 1

/-- Every record with its table and index, and whether it passes, by table and then index (R187). -/
def Tables.judgements (t : Tables) : List (Nat × Nat × Bool) :=
  let passes := ittPasses t 24
  (List.finRange 96).map (fun i => (0, i.val, frtOk t passes (t.frt.get i)))
  ++ (List.finRange 16).map (fun i => (1, i.val, rttOk t (t.rtt.get i)))
  ++ (List.finRange 24).map (fun i => (2, i.val, passes.getD i.val false))
  ++ (List.finRange 11).map (fun i => (3, i.val, roleOk (t.roles.get i)))
  ++ (List.finRange 32).map (fun i => (4, i.val, slotOk i.val (t.slots.get i)))
  ++ (List.finRange 3).map (fun i => (5, i.val, driveOk t passes (t.drives.get i)))
  ++ Tank.all.map (fun k => (6, (tankIndex k).val, tankOk t k))
  ++ (List.finRange 24).map (fun i => (7, i.val, paramOk t i))

/-- The failing records, by table and then index (R186, R190). -/
def Tables.failing (t : Tables) : List (Nat × Nat) :=
  t.judgements.filterMap fun (tb, ix, ok) => if ok then none else some (tb, ix)

/-- A tagged image carries no tag REJECTED. -/
def notRejected (img : Image20) : Bool := tagOf img != .rejected

/-- No record of the tables is tagged REJECTED (R189, R197). -/
def Tables.noRejected (t : Tables) : Bool :=
  t.frt.toList.all notRejected && t.rtt.toList.all notRejected && t.itt.toList.all notRejected
    && t.drives.toList.all notRejected && t.tanks.toList.all notRejected

/-- The tables pass every check of R187 with no record tagged REJECTED (R189, R197). -/
def Tables.sound (t : Tables) : Bool := t.failing.isEmpty && t.noRejected

/-- A tagged image with this tag code. -/
def withTag (img : Image20) (code : Byte) : Image20 := (img &&& ~~~255#160) ||| code.setWidth 160

/-- The tag of a passing record: REJECTED becomes VALID, others stay (R190). -/
def passedTag (img : Image20) : Image20 := if tagOf img == .rejected then withTag img 1 else img

/-- A tagged record after a COMMIT judged it: REJECTED where it failed, VALID where it was REJECTED and passes (R190). -/
def retag (failed : List (Nat × Nat)) (tb ix : Nat) (img : Image20) : Image20 :=
  if failed.contains (tb, ix) then withTag img 2 else passedTag img

/-- The shadow tables after a COMMIT judged them (R190, R191). -/
def Tables.retagged (t : Tables) (failed : List (Nat × Nat)) : Tables :=
  { t with
    frt := Vector.ofFn fun i => retag failed 0 i.val (t.frt.get i)
    rtt := Vector.ofFn fun i => retag failed 1 i.val (t.rtt.get i)
    itt := Vector.ofFn fun i => retag failed 2 i.val (t.itt.get i)
    drives := Vector.ofFn fun i => retag failed 5 i.val (t.drives.get i)
    tanks := Vector.ofFn fun i => retag failed 6 i.val (t.tanks.get i) }

end Sys2Proof.Machine
end

