-- ==== Sys2Proof/Machine/Store.lean ====
section
/-! DEFINITION. The stored image: its layout in bytes, its CRC-16 and the image check (R197, R199, 11 section 11.5). -/

namespace Sys2Proof.Machine

/-- The stored image, 3120 bytes: header, tables, closing word (11 section 11.5). -/
structure StoredImage where
  format : BitVec 16
  length : BitVec 16
  crc : BitVec 16
  zero : BitVec 16
  tables : Tables
  closing : BitVec 32
  deriving DecidableEq, Repr

/-- The bytes of a number, least significant first (R201). -/
def bytesOf {n : Nat} (count : Nat) (v : BitVec n) : List Byte :=
  (List.range count).map fun b => v.extractLsb' (8 * b) 8

/-- The tables as 3108 bytes: tables in table-id order, records in index order. -/
def Tables.bytes (t : Tables) : List Byte :=
  t.frt.toList.flatMap (bytesOf 20) ++ t.rtt.toList.flatMap (bytesOf 20) ++ t.itt.toList.flatMap (bytesOf 20)
    ++ t.roles.toList.flatMap (bytesOf 4) ++ t.slots.toList.flatMap (bytesOf 4)
    ++ t.drives.toList.flatMap (bytesOf 20) ++ t.tanks.toList.flatMap (bytesOf 20)
    ++ t.params.toList.flatMap (bytesOf 4)

/-- One bit step of the CRC: shift out the top bit and divide by 0x1021. -/
def crcBit (c : BitVec 16) : BitVec 16 := if c.msb then (c <<< 1) ^^^ 0x1021#16 else c <<< 1

/-- One byte of the CRC, most significant bit first. -/
def crcByte (c : BitVec 16) (b : Byte) : BitVec 16 :=
  Nat.repeat crcBit 8 (c ^^^ (b.setWidth 16 <<< 8))

/-- CRC-16 with polynomial 0x1021, initial value 0xFFFF, no reflection, no final XOR (R197). -/
def crc16 (bs : List Byte) : BitVec 16 := bs.foldl crcByte 0xFFFF#16

/-- The bytes after the header. -/
def StoredImage.body (m : StoredImage) : List Byte := m.tables.bytes ++ bytesOf 4 m.closing

/-- The 3120 bytes of the image in offset order. -/
def StoredImage.bytes (m : StoredImage) : List Byte :=
  bytesOf 2 m.format ++ bytesOf 2 m.length ++ bytesOf 2 m.crc ++ bytesOf 2 m.zero ++ m.body

/-- The closing word: 0x2640 in its low half, then 0xD9BF. -/
def closingWord : BitVec 32 := 0xD9BF2640#32

/-- The image check of R197. -/
def StoredImage.good (m : StoredImage) : Bool :=
  m.format == 0x2640#16 && m.length == 3112#16 && m.closing == closingWord && crc16 m.body == m.crc && m.tables.sound

/-! What the part writes into the store: the fields of the layouts, and 0 in every other bit (R201, 11 section 11.3). -/

/-- The bits of an FRT image that a field has: byte 15 and the bits between the fields have none. -/
def frtLayout : Image20 := 0x7FFF7FFF00FF8F8F1FFFFFFF1FFFFFFFFF9F7FFF

/-- The bits of an RTT image that a field has: bytes 2 and 3 have none. -/
def rttLayout : Image20 := 0x0FBFFFFF0FBFFFFF0FBFFFFF1FFFFFFF00000FFF

/-- The bits of a drive image that a field has: bytes 3, 6, 7, 18 and 19 have none. -/
def driveLayout : Image20 := 0x0000FFFFFFFFFFFFFFFFFFFF00009F9F003F9FFF

/-- The bits of a tank image that a field has: bytes 14 to 19 have none. -/
def tankLayout : Image20 := 0x000000000000FFFFFFFFFFFFFFFFFFFFFFFF83FF

/-- The bits that the condition whose head byte is at byte pos has, counted from there (R203): a set has no members beyond the
six drive states or the five bands. Of a head byte of no kind the kind bits alone are a field (R201, log 40). -/
def condLayout (img : Image20) (pos : Nat) : Image20 :=
  match byteOf img pos % 8 with
  | 0 => if relOf (byteOf img (pos + 1)) = some .inside then 0xFFFFFFFFFFFFFFFF else 0xFFFFFFFFFFFF
  | 2 => 0x3F1F
  | 3 => 0x1F1F
  | 4 => 0x0F
  | 1 | 5 => 0xFF
  | _ => 0x07

/-- The size in bytes of the condition whose head byte is at byte pos, by its kind alone, whatever its slot, channel, tank,
relation or term index (R203); the codes 6 and 7 are no kinds and have no size. -/
def condSize (img : Image20) (pos : Nat) : Option Nat :=
  match byteOf img pos % 8 with
  | 0 => some (if relOf (byteOf img (pos + 1)) = some .inside then 8 else 6)
  | 2 | 3 => some 2
  | 1 | 4 | 5 => some 1
  | _ => none

/-- The bits that n conditions from byte pos on have (R201, R203). Behind a head byte of no kind, whose condition has no size, no
layout assigns a bit to a field, so none has (log 40). -/
def condsLayout (img : Image20) : Nat → Nat → Image20
  | 0, _ => 0
  | n + 1, pos =>
    (condLayout img pos <<< (8 * pos)) ||| match condSize img pos with
      | none => 0
      | some size => condsLayout img n (pos + size)

/-- The bits of an ITT image that a field has: tag, combiner, count and the counted conditions; the bytes after the last
counted condition have none. -/
def ittLayout (img : Image20) : Image20 := 0x07FF ||| condsLayout img (field img 9 2 + 1) 2

/-- The bits that the record of slot i has. -/
def slotLayout (i : Nat) : Image4 := if i < 6 then 0x1FF else if i < 10 then 0x3FFFFFFF else 0xFF

/-- The bits that parameter n has: an identifier has 29, the mask 18. -/
def paramLayout (n : Nat) : Image4 := if n = 2 then 0x1FFFFFFF else if n = 22 then 0x3FFFF else BitVec.allOnes 32

/-- The tables as the part writes them into the store: each field as it is, every bit that no field has 0 (R201). -/
def Tables.stored (t : Tables) : Tables :=
  { frt := t.frt.map fun img => img &&& frtLayout
    rtt := t.rtt.map fun img => img &&& rttLayout
    itt := t.itt.map fun img => img &&& ittLayout img
    roles := t.roles.map fun img => img &&& 0xFF
    slots := Vector.ofFn fun i => t.slots.get i &&& slotLayout i.val
    drives := t.drives.map fun img => img &&& driveLayout
    tanks := t.tanks.map fun img => img &&& tankLayout
    params := Vector.ofFn fun n => t.params.get n &&& paramLayout n.val }

/-- The image that holds these tables: header, tables, closing word (11 section 11.5). -/
def StoredImage.holding (t : Tables) : StoredImage :=
  { format := 0x2640#16, length := 3112#16, crc := crc16 (t.bytes ++ bytesOf 4 closingWord), zero := 0, tables := t,
    closing := closingWord }

/-- The image a SAVE writes (R199, R201). -/
def StoredImage.ofTables (t : Tables) : StoredImage := StoredImage.holding t.stored

/-- The image while a SAVE is in flight: its format code is cleared (R199, 11 section 11.5). -/
def StoredImage.invalidated (m : StoredImage) : StoredImage := { m with format := 0 }

/-- A store that nothing has been written to: every byte 0 (log 6). -/
def StoredImage.blank : StoredImage :=
  { format := 0, length := 0, crc := 0, zero := 0, closing := 0
    tables :=
      { frt := Vector.replicate 96 0, rtt := Vector.replicate 16 0, itt := Vector.replicate 24 0,
        roles := Vector.replicate 11 0, slots := Vector.replicate 32 0, drives := Vector.replicate 3 0,
        tanks := Vector.replicate 3 0, params := Vector.replicate 24 0 } }

end Sys2Proof.Machine
end

