-- ==== Sys2Proof/Machine/State.lean ====
section
/-! DEFINITION. The state of the block, its reset value, and the reasons a step can stop. -/

namespace Sys2Proof.Machine

/-- Kind of a queued frame, with what R5 keeps for a forwarded one. -/
inductive QueueKind where
  | forwarded (arrival : Port) (entry : Option (Fin 96)) (deadline : Nat)
  | part
  deriving DecidableEq, Repr

/-- A frame of a transmit queue (R5). -/
structure QueuedFrame where
  frame : Frame
  kind : QueueKind
  mark : Bool
  deriving DecidableEq, Repr

/-- One port (chapter 1). The transmit queue is waiting, in queuing order, together with inFlight. since is the time at which
reception last began or resumed (R13, R14). -/
structure PortRec where
  state : PortState := .active
  count : Nat := 0
  waiting : List QueuedFrame := []
  inFlight : Option QueuedFrame := none
  recovery : Option Nat := none
  since : Nat := 0
  rate : Nat := 250
  deriving DecidableEq, Repr

/-- A held frame (R34). Held frames are extended-format frames. -/
structure HeldFrame where
  frame : Frame
  arrival : Port
  entry : Fin 96
  term : Fin 24
  deadline : Nat
  deriving DecidableEq, Repr

/-- The raw value of one CLAMP field of a recorded frame (R42). -/
structure ClampField where
  start : Nat
  len : Nat
  raw : Nat
  deriving DecidableEq, Repr

/-- A reissue record that is not empty (R42). -/
structure ReissueRec where
  frame : Frame
  clamps : List ClampField
  target : Port
  arrival : Port
  entry : Fin 96
  time : Nat
  deriving DecidableEq, Repr

/-- FRE's running state (chapter 2). -/
structure FreRec where
  hold : List HeldFrame := []
  reissue : Vector (Option ReissueRec) 16 := Vector.replicate 16 none
  deriving DecidableEq, Repr

/-- A slot (R45). The age is computed from the time of the last write. -/
structure SlotRec where
  value : Raw := 0
  fresh : Freshness := .never
  writtenAt : Nat := 0
  writer : Writer := .none
  staleAt : Option Nat := none
  deriving DecidableEq, Repr

/-- A switch input (R59): the line's level, the accepted level, the debounce timer. -/
structure SwitchRec where
  line : Bool := false
  accepted : Option Bool := none
  timer : Option Nat := none
  deriving DecidableEq, Repr

/-- A pulse input (R62 to R65): count, expiry and length of the running window, pending length. -/
structure PulseRec where
  count : Nat := 0
  windowEnd : Option Nat := none
  windowLen : Nat := 0
  pendingLen : Option Nat := none
  deriving DecidableEq, Repr

/-- SIG's state (chapter 3). -/
structure SigRec where
  slots : Vector SlotRec 32 := Vector.replicate 32 { }
  switches : Vector SwitchRec 6 := Vector.replicate 6 { }
  pulses : Vector PulseRec 4 := Vector.replicate 4 { }
  deriving DecidableEq, Repr

/-- ILK's state (chapter 4): the result each condition took last (a SIGNAL condition's remembered result, R71; that of a MODE,
DRIVE, BAND or SUPPLY condition until an event reaches it, R77), term results, mode, STOPPED latch. -/
structure IlkRec where
  mem : Vector (Vector Tri 4) 24 := Vector.replicate 24 (Vector.replicate 4 .unknown)
  terms : Vector Tri 24 := Vector.replicate 24 .ff
  mode : Mode := .road
  stopped : Bool := false
  deriving DecidableEq, Repr

/-- The context of a drive channel (R92). -/
structure ChannelRec where
  state : DriveState := .disengaged
  timer : Option (DriveTimer × Nat) := none
  origin : Option Origin := none
  outcome : Option DriveOutcome := none
  deriving DecidableEq, Repr

/-- DRV's state (chapter 5). -/
structure DrvRec where
  main : ChannelRec := { }
  roll : ChannelRec := { }
  aux : ChannelRec := { }
  deriving DecidableEq, Repr

/-- A tank record (R119). The filtered level and the estimate are computed from it. -/
structure TankRec where
  window : List Raw := []
  sender : Sender := .good
  strikes : Nat := 0
  agree : Nat := 0
  base : Raw := 0
  drawn : Nat := 0
  source : LevelSource := .none
  level : Option Raw := none
  band : Band := .unknown
  deriving DecidableEq, Repr

/-- TNK's state (chapter 6). -/
structure TnkRec where
  water : TankRec := { }
  foamA : TankRec := { }
  foamB : TankRec := { }
  supply : Supply := .tank
  tankOpen : Bool := false
  fillOpen : Bool := false
  override : Bool := false
  dry : Bool := false
  runDry : Option Nat := none
  heldMain : DriveState := .disengaged
  heldRoll : DriveState := .disengaged
  deriving DecidableEq, Repr

/-- CSU's state (chapter 7). -/
structure CsuRec where
  mode : Mode := .road
  main : DriveState := .disengaged
  roll : DriveState := .disengaged
  supply : Supply := .tank
  band : Band := .unknown
  target : Raw := 700
  applied : Raw := 700
  ramp : Option Nat := none
  sup : Supervision := .disarmed
  supTimer : Option Nat := none
  deriving DecidableEq, Repr

/-- A full capture record (R169). -/
structure Capture where
  raise : Raise
  further : Bool
  deriving DecidableEq, Repr

/-- EXC's state (chapter 8): bit n - 1 for class n. -/
structure ExcRec where
  flags : BitVec 18 := 0
  pend : BitVec 18 := 0
  capture : Option Capture := none
  summary : Bool := false
  deriving DecidableEq, Repr

/-- Last commit outcome (R182, R190). -/
inductive CommitOutcome where
  | none
  | ok
  | rejected (table index : Nat)
  deriving DecidableEq, Repr

/-- The SAVE in flight: where its response goes, its tag, and when it was accepted (R199, R200). -/
structure SaveRec where
  port : Port
  tag : Byte
  since : Nat
  deriving DecidableEq, Repr

/-- MGT's state (chapter 9). The active set stands beside it in State, since every block reads it. -/
structure MgtRec where
  shadow : Tables := Tables.fallback
  roleMarks : Vector Bool 11 := Vector.replicate 11 false
  slotMarks : Vector Bool 32 := Vector.replicate 32 false
  paramMarks : Vector Bool 24 := Vector.replicate 24 false
  modified : Bool := false
  lastCommit : CommitOutcome := .none
  save : Option SaveRec := none
  deriving DecidableEq, Repr

/-- Start-up phases (chapter 10). -/
inductive Phase where
  | reset | start | run
  deriving DecidableEq, Repr

/-- The reset cause set (R195). -/
structure ResetCauses where
  powerOn : Bool := false
  resetLine : Bool := false
  management : Bool := false
  startFallback : Bool := false
  deriving DecidableEq, Repr

/-- The start-up controller and the settings store (chapter 10). -/
structure SysRec where
  phase : Phase := .reset
  causes : ResetCauses := { }
  powered : Bool := true
  resetLow : Bool := false
  fallback : Bool := false
  readAt : Option Nat := none
  store : StoredImage := StoredImage.blank
  deriving DecidableEq, Repr

/-- Levels of the six output lines. -/
structure Outs where
  main : Bool := false
  roll : Bool := false
  aux : Bool := false
  tank : Bool := false
  fill : Bool := false
  alarm : Bool := false
  deriving DecidableEq, Repr

/-- The state of the block. pending is the queue of commands that wait; outbox holds the events that one block has
delivered to another and that have not been taken yet, oldest first (log 1); now is the time in ms; free counts the free
values drawn (log 15). -/
structure State where
  pending : List Instr := []
  outbox : List Instr := []
  now : Nat := 0
  free : Nat := 0
  sys : SysRec := { }
  active : Tables := Tables.fallback
  mgt : MgtRec := { }
  cp : PortRec := { }
  bp : PortRec := { }
  fre : FreRec := { }
  sig : SigRec := { }
  ilk : IlkRec := { }
  drv : DrvRec := { }
  tnk : TnkRec := { }
  csu : CsuRec := { }
  exc : ExcRec := { }
  outs : Outs := { }
  deriving DecidableEq, Repr

/-- The part right after a power-on reset has been released with the reset line high: START begins and the store read is
under way (R194, R195, R197); every block at its reset value; the store blank and the tables in force those of the
fallback configuration until start-up ends (logs 6, 7). -/
def State.reset : State :=
  { sys := { phase := .start, causes := { powerOn := true }, readAt := some 0 } }

/-- Faults of the machine: none. The spec names no event that stops the part. -/
inductive Fault where
  deriving DecidableEq, Repr

/-- Refusals. -/
inductive Refusal where
  /-- Raised by exec's arm of a command that has no meaning yet; no arm raises it now. Safe. -/
  | notModelled (mnemonic : String)
  deriving DecidableEq, Repr

end Sys2Proof.Machine
end

