-- ==== Sys2Proof/Machine/Operands.lean ====
section
/-! DEFINITION. Frames and their fields: bit numbering of data (00 section 0.6), extraction, templates (R30 to R32), frame
ranking (R8), and the frames of the management traffic (11 section 11.1). -/

namespace Sys2Proof.Machine

/-- Data bytes as one number: bit n of the data is bit n mod 8 of byte n div 8. -/
def dataNat : List Byte → Nat
  | [] => 0
  | b :: bs => b.toNat + 256 * dataNat bs

/-- The first count bytes of a number. -/
def natData : Nat → Nat → List Byte
  | 0, _ => []
  | count + 1, n => BitVec.ofNat 8 n :: natData count (n / 256)

/-- A field lies in range for data of this many bytes (00 section 0.6). -/
def inRange (len start fieldLen : Nat) : Bool := start + fieldLen ≤ 8 * len

/-- Reads a field, least significant bit at the start bit (R49). -/
def readField (data : List Byte) (start len : Nat) : Nat := dataNat data / 2 ^ start % 2 ^ len

/-- Writes a field with the lowest bits of v (R31); the other bits stay. -/
def writeField (data : List Byte) (start len v : Nat) : List Byte :=
  let n := dataNat data
  natData data.length
    (n % 2 ^ start + v % 2 ^ len * 2 ^ start + n / 2 ^ (start + len) * 2 ^ (start + len))

/-- A frame as a port takes it from its bus: at most 8 data bytes (R1, log 23). -/
def extFrame (id : Ident) (data : List Byte) : Frame := { ext := true, ident := id, data := data.take 8 }

/-- A standard-format frame (R4). -/
def stdFrame (id : BitVec 11) (data : List Byte) : Frame :=
  { ext := false, ident := id.setWidth 29, data := data.take 8 }

/-! Templates. -/

/-- Every patch lies in range for a frame of this length (R30). -/
def patchesInRange (ps : List Patch) (len : Nat) : Bool := ps.all fun p => inRange len p.start p.len

/-- The value a CLAMP writes: the lesser of field and ceiling where the ceiling fits in the field, else the field
(R32). -/
def clampValue (f c len : Nat) : Nat := if c < 2 ^ len then min f c else f

/-- One patch applied to the data as it stands (R31, R32). -/
def applyPatch (ceiling : Nat) (data : List Byte) (p : Patch) : List Byte :=
  if p.clamp then writeField data p.start p.len (clampValue (readField data p.start p.len) ceiling p.len)
  else writeField data p.start p.len p.const

/-- The raw values of the CLAMP fields of a frame, before clamping (R42). Patches share no bits, so the order in which
they are applied does not change them. -/
def clampFields (ps : List Patch) (data : List Byte) : List ClampField :=
  (ps.filter (·.clamp)).map fun p => { start := p.start, len := p.len, raw := readField data p.start p.len }

/-- A template applied to a frame, or none where a patch is out of range (R30). -/
def applyTemplate (img : Image20) (ceiling : Nat) (f : Frame) : Option Frame :=
  let ps := rttPatches img
  if patchesInRange ps f.data.length then
    some { ext := true, ident := (rttReplacement img).getD f.ident, data := ps.foldl (applyPatch ceiling) f.data }
  else none

/-- A recorded frame with each CLAMP field at the lesser of its raw value and c (R43). -/
def reclamp (clamps : List ClampField) (c : Nat) (data : List Byte) : List Byte :=
  clamps.foldl (fun d k => writeField d k.start k.len (min k.raw c)) data

/-- Some CLAMP field of the recorded frame holds more than c (R43). -/
def clampAbove (clamps : List ClampField) (c : Nat) (data : List Byte) : Bool :=
  clamps.any fun k => c < readField data k.start k.len

/-! Ranking of waiting frames (R8). -/

/-- Rank of a frame at the arbiter, lowest first: the eleven highest identifier bits, then standard before extended,
then the other eighteen bits (R8). -/
def rankKey (f : Frame) : Nat :=
  if f.ext then f.ident.toNat / 262144 * 524288 + 262144 + f.ident.toNat % 262144
  else f.ident.toNat * 524288

/-- The waiting frame that ranks first, and the rest; equal ranks go oldest first (R8). -/
def takeFirst : List QueuedFrame → Option (QueuedFrame × List QueuedFrame)
  | [] => none
  | q :: qs =>
    match takeFirst qs with
    | none => some (q, qs)
    | some (b, rest) => if rankKey q.frame ≤ rankKey b.frame then some (q, qs) else some (b, q :: rest)

/-! Management frames. -/

/-- Request codes (11 section 11.1). -/
inductive ReqCode where
  | readStatus | readSignal | readActive | readShadow | writeShadow | revertShadow | commit | save | readEvent
  | readCapture | clearExceptions | clearCapture | driveCommand | valveCommand | readResetCause | resetPart
  deriving DecidableEq, Repr

/-- Byte 0 of a request. -/
def ReqCode.byte : ReqCode → Byte
  | .readStatus => 0x01
  | .readSignal => 0x02
  | .readActive => 0x03
  | .readShadow => 0x04
  | .writeShadow => 0x05
  | .revertShadow => 0x06
  | .commit => 0x07
  | .save => 0x08
  | .readEvent => 0x09
  | .readCapture => 0x0A
  | .clearExceptions => 0x0B
  | .clearCapture => 0x0C
  | .driveCommand => 0x0D
  | .valveCommand => 0x0E
  | .readResetCause => 0x0F
  | .resetPart => 0x10

/-- The request a code byte names. -/
def reqCodeOf (b : Byte) : Option ReqCode :=
  match b.toNat with
  | 1 => some .readStatus
  | 2 => some .readSignal
  | 3 => some .readActive
  | 4 => some .readShadow
  | 5 => some .writeShadow
  | 6 => some .revertShadow
  | 7 => some .commit
  | 8 => some .save
  | 9 => some .readEvent
  | 10 => some .readCapture
  | 11 => some .clearExceptions
  | 12 => some .clearCapture
  | 13 => some .driveCommand
  | 14 => some .valveCommand
  | 15 => some .readResetCause
  | 16 => some .resetPart
  | _ => none

/-- The 8 bytes of a request. -/
def requestBytes (r : Request) (code : ReqCode) : List Byte :=
  [code.byte, r.tag, r.b2, r.b3, r.b4, r.b5, r.b6, r.b7]

/-- The request that the 8 bytes of an arriving frame carry. -/
def requestOf (a : Arrival) (data : List Byte) : Request :=
  { toArrival := a, tag := data.getD 1 0, b2 := data.getD 2 0, b3 := data.getD 3 0, b4 := data.getD 4 0,
    b5 := data.getD 5 0, b6 := data.getD 6 0, b7 := data.getD 7 0 }

/-- Results and their codes (11 section 11.1). -/
inductive Result where
  | ok | badRequest | badIndex | refusedPrivilege | refusedMode | busy | rejected | storeError | refused
  deriving DecidableEq, Repr

/-- Byte 2 of a response. -/
def Result.byte : Result → Byte
  | .ok => 0
  | .badRequest => 1
  | .badIndex => 2
  | .refusedPrivilege => 3
  | .refusedMode => 4
  | .busy => 5
  | .rejected => 6
  | .storeError => 7
  | .refused => 8

/-- Five data bytes: those given, then zeros (R201). -/
def fiveBytes (data : List Byte) : List Byte :=
  [data.getD 0 0, data.getD 1 0, data.getD 2 0, data.getD 3 0, data.getD 4 0]

/-- A response frame (R178, 11 section 11.1). -/
def responseFrame (t : Tables) (code tag : Byte) (res : Result) (data : List Byte) : Frame :=
  { ext := true, ident := t.mgmtIdent 1, data := code :: tag :: res.byte :: fiveBytes data }

/-- A byte from fields: each a value and the bit it starts at. -/
def packByte (fs : List (Nat × Nat)) : Byte := BitVec.ofNat 8 (fs.foldr (fun f acc => f.1 * 2 ^ f.2 + acc) 0)

/-- Low byte of a number. -/
def lowByte (n : Nat) : Byte := BitVec.ofNat 8 n

/-- High byte of a 16-bit number. -/
def highByte (n : Nat) : Byte := BitVec.ofNat 8 (n / 256)

/-- A flag as a number. -/
def flagNat (b : Bool) : Nat := if b then 1 else 0

/-- Mode codes (11 section 11.1). -/
def modeCode : Mode → Nat
  | .road => 0
  | .parked => 1
  | .pumpStatic => 2
  | .pumpRoll => 3
  | .conflict => 4

/-- Drive state codes (11 section 11.2). -/
def driveCode : DriveState → Nat
  | .disengaged => 0
  | .shifting => 1
  | .verifying => 2
  | .engaged => 3
  | .releasing => 4
  | .faulted => 5

/-- Band codes (11 section 11.2). -/
def bandCode : Band → Nat
  | .empty => 0
  | .low => 1
  | .normal => 2
  | .full => 3
  | .unknown => 4

/-- Sender codes (11 section 11.2). -/
def senderCode : Sender → Nat
  | .good => 0
  | .suspect => 1
  | .failed => 2

/-- Source codes (11 section 11.2). -/
def sourceCode : LevelSource → Nat
  | .sender => 0
  | .estimate => 1
  | .none => 2

/-- Supervision codes (11 section 11.2). -/
def supervisionCode : Supervision → Nat
  | .disarmed => 0
  | .armed => 1
  | .lapsed => 2

/-- Port state codes (11 section 11.2). -/
def portStateCode : PortState → Nat
  | .active => 0
  | .warn => 1
  | .off => 2

/-- Reason and cause numbers, from 0 in the order of R92. -/
def refuseCode : RefuseReason → Nat
  | .notPermitted => 0
  | .exclusive => 1
  | .conflict => 2
  | .busy => 3

/-- The last outcome byte (11 section 11.2). -/
def outcomeByte : Option DriveOutcome → Byte
  | none => 0
  | some .engaged => 1
  | some (.refused r) => packByte [(2, 0), (refuseCode r, 3)]
  | some (.aborted c) =>
    packByte [(3, 0), (match c with
      | .disengage => 0
      | .permitLost => 1
      | .supervision => 2
      | .dryRun => 3, 3)]
  | some (.failed c) =>
    packByte [(4, 0), (match c with
      | .verifyTimeout => 0
      | .confirmLost => 1
      | .releaseCheck => 2, 3)]

/-- Writer byte of READ_SIGNAL: 0 to 95 entry, 96 LINE, 127 NONE, plus 128 when STALE (11 section 11.1). -/
def writerByte (r : SlotRec) : Byte :=
  let w := match r.writer with
    | .entry i => i.val
    | .line => 96
    | .none => 127
  lowByte (if r.fresh = .stale then w + 128 else w)

/-- Reason byte of READ_CAPTURE (11 section 11.2). -/
def reasonCode : Option Reason → Nat
  | none => 0
  | some .notPermitted => 1
  | some .exclusive => 2
  | some .conflict => 3
  | some .busy => 4
  | some .overflow => 5
  | some .expired => 6
  | some .purged => 7
  | some .portOff => 8
  | some .full => 9
  | some .stale => 10

end Sys2Proof.Machine
end

