-- ==== Sys2Proof/Machine/Flags.lean ====
section
/-! DEFINITION. The exception flags, mask, pending bits and alarm summary as bit sets (R163 to R172). -/

namespace Sys2Proof.Machine

/-- Class numbers by precedence, 1 highest (R162). -/
def classNumber : ExcClass → Nat
  | .storeFault => 1
  | .modeConflict => 2
  | .supervisionLost => 3
  | .dryRun => 4
  | .engageFailed => 5
  | .engageLost => 6
  | .releaseFailed => 7
  | .portOff => 8
  | .senderFailed => 9
  | .lockout => 10
  | .staleGate => 11
  | .permitLost => 12
  | .engageRefused => 13
  | .fillRefused => 14
  | .holdDiscard => 15
  | .txDiscard => 16
  | .fieldRange => 17
  | .portWarn => 18

/-- Bit n - 1 for class n. -/
def classBit (c : ExcClass) : BitVec 18 := BitVec.twoPow 18 (classNumber c - 1)

/-- The class is a member of a set of classes. -/
def hasClass (set : BitVec 18) (c : ExcClass) : Bool := set.getLsbD (classNumber c - 1)

/-- The class is masked in these tables (R163). -/
def Tables.masked (t : Tables) (c : ExcClass) : Bool := hasClass t.mask c

/-- The alarm summary: some class has its flag set and its mask bit clear (R166). -/
def summaryOf (flags mask : BitVec 18) : Bool := flags &&& ~~~mask != 0

/-- The numbers of the classes in a set, highest precedence first. -/
def classesIn (set : BitVec 18) : List Nat := ((List.range 18).filter fun i => set.getLsbD i).map (· + 1)

/-- The highest-precedence class of a set, or 0 (R173). -/
def highestClass (set : BitVec 18) : Nat := (classesIn set).headD 0

/-- A set of classes without its highest-precedence member (R173). -/
def dropHighest (set : BitVec 18) : BitVec 18 :=
  if highestClass set = 0 then set else set &&& ~~~BitVec.twoPow 18 (highestClass set - 1)

/-- The alarm notice: class, summary on, mode, pending count, the two highest pending classes (R172, 11 section 11.1). -/
def noticeFrame (t : Tables) (r : Raise) (pend : BitVec 18) : Frame :=
  let cs := classesIn pend
  { ext := true, ident := t.mgmtIdent 2,
    data := [lowByte (classNumber r.cls), 1, lowByte (modeCode r.mode), lowByte cs.length, lowByte (cs.getD 0 0),
      lowByte (cs.getD 1 0), 0, 0] }

end Sys2Proof.Machine
end

