-- ==== Sys2Proof/Machine/Ops.lean ====
section
/-! DEFINITION. The operations every block uses: deliveries, the clock, raises, the two queuing requests (R6, R7) with the
arbiter (R8), EXC's taking of a raise (R163), slot writes and their events (R46, R57, R58), and a reset (R194). -/

namespace Sys2Proof.Machine

/-! Deliveries and the clock. -/

/-- Delivers events: they join the outbox as its newest (log 1). -/
def State.post (s : State) (ds : List Instr) : State := { s with outbox := s.outbox ++ ds }

/-- A delivered event is being taken: its oldest delivery leaves the outbox, where there is one (log 1). -/
def State.taken (s : State) (d : Instr) : State := { s with outbox := s.outbox.erase d }

/-- An expiry at time t is taken: the clock stands at t or later (log 3). -/
def State.clock (s : State) (t : Nat) : State := { s with now := max s.now t }

/-- The next free bits (log 15). -/
def State.freeBits (s : State) : BitVec 64 := Config.absentBits s.free

/-- A free value has been drawn. -/
def State.drawn (s : State) : State := { s with free := s.free + 1 }

/-- What a command does in RUN; in RESET and START the blocks take nothing (R2, R48, R81, R117, R146, R160, R177). -/
def State.inRun (s : State) (k : State → State) : State := if s.sys.phase = .run then k s else s

/-- A block raises an exception: the raise is delivered to EXC (R162, R163). -/
def State.raise (s : State) (r : Raise) : State := s.post [.exceptionRaise r]

/-! Updates of one part of the state. -/

/-- Replaces the deliveries that wait. -/
def State.setOutbox (s : State) (ds : List Instr) : State := { s with outbox := ds }

/-- Replaces the state of the start-up controller. -/
def State.setSys (s : State) (r : SysRec) : State := { s with sys := r }

/-- Replaces the active set. -/
def State.setActive (s : State) (t : Tables) : State := { s with active := t }

/-- Replaces MGT's state. -/
def State.setMgt (s : State) (r : MgtRec) : State := { s with mgt := r }

/-- Replaces FRE's state. -/
def State.setFre (s : State) (r : FreRec) : State := { s with fre := r }

/-- Replaces SIG's state. -/
def State.setSig (s : State) (r : SigRec) : State := { s with sig := r }

/-- Replaces ILK's state. -/
def State.setIlk (s : State) (r : IlkRec) : State := { s with ilk := r }

/-- Replaces DRV's state. -/
def State.setDrv (s : State) (r : DrvRec) : State := { s with drv := r }

/-- Replaces TNK's state, the lines apart. -/
def State.setTnk (s : State) (r : TnkRec) : State := { s with tnk := r }

/-- Replaces CSU's state. -/
def State.setCsu (s : State) (r : CsuRec) : State := { s with csu := r }

/-- Replaces EXC's state, OUT_ALARM apart. -/
def State.setExc (s : State) (r : ExcRec) : State := { s with exc := r }

/-- Replaces the levels of the output lines. -/
def State.setOuts (s : State) (r : Outs) : State := { s with outs := r }

/-! Ports. -/

/-- The record of a port. -/
def State.port (s : State) : Port → PortRec
  | .cp => s.cp
  | .bp => s.bp

/-- Replaces the record of a port. -/
def State.setPort (s : State) (p : Port) (r : PortRec) : State :=
  match p with
  | .cp => { s with cp := r }
  | .bp => { s with bp := r }

/-- A queued frame is forwarded. -/
def QueuedFrame.isForwarded (q : QueuedFrame) : Bool :=
  match q.kind with
  | .forwarded _ _ _ => true
  | .part => false

/-- Every frame of a port's queue, the in-flight frame included (R5). -/
def PortRec.frames (r : PortRec) : List QueuedFrame := r.inFlight.toList ++ r.waiting

/-- Frames in the forwarded share (R5, R17). -/
def PortRec.forwardedDepth (r : PortRec) : Nat := (r.frames.filter QueuedFrame.isForwarded).length

/-- Frames in the part-originated share (R5, R17). -/
def PortRec.partDepth (r : PortRec) : Nat := (r.frames.filter fun q => !q.isForwarded).length

/-- The arbiter: with no frame in flight, the waiting frame that ranks first goes in flight (R8). A port in OFF runs no
arbitration. -/
def PortRec.arbitrate (r : PortRec) : PortRec :=
  match r.state, r.inFlight, takeFirst r.waiting with
  | .off, _, _ => r
  | _, some _, _ => r
  | _, none, none => r
  | _, none, some (q, rest) => { r with waiting := rest, inFlight := some q }

/-- A frame joins the queue as its newest and the arbiter acts (R6, R7, R8). -/
def PortRec.add (r : PortRec) (q : QueuedFrame) : PortRec := PortRec.arbitrate { r with waiting := r.waiting ++ [q] }

/-- Coalescing: the oldest waiting frame with the mark and the same identifier and format takes the new frame's data and
entry index, and keeps the rest (R6 case 2). Absent where there is none. -/
def coalesce (q : ForwardRequest) : List QueuedFrame → Option (List QueuedFrame)
  | [] => none
  | w :: ws =>
    if w.mark && w.frame.ident == q.frame.ident && w.frame.ext == q.frame.ext then
      match w.kind with
      | .forwarded a _ d => some ({ w with frame := q.frame, kind := .forwarded a q.entry d } :: ws)
      | .part => (coalesce q ws).map (w :: ·)
    else (coalesce q ws).map (w :: ·)

/-- The TX_DISCARD raise of a forwarded frame (R6, R9, R10, R162). -/
def txDiscard (s : State) (f : Frame) (arrival : Port) (entry : Option (Fin 96)) (why : Reason) : Raise :=
  { cls := .txDiscard, mode := s.ilk.mode, port := some arrival, frame := some f, entry := entry, reason := some why }

/-- A request to queue a forwarded frame on port p, its cases in the order of R6. -/
def queueForwarded (s : State) (p : Port) (q : ForwardRequest) : State :=
  let r := s.port p
  if r.state = .off then s.raise (txDiscard s q.frame q.arrival q.entry .portOff)
  else
    match (if q.mark then coalesce q r.waiting else none) with
    | some ws => s.setPort p { r with waiting := ws }
    | none =>
      if Config.forwardedShare ≤ r.forwardedDepth then s.raise (txDiscard s q.frame q.arrival q.entry .full)
      else
        s.setPort p
          (r.add { frame := q.frame, kind := .forwarded q.arrival q.entry (s.now + s.active.txAge), mark := q.mark })

/-- A request to queue a response or notice on port p (R7). -/
def queuePart (s : State) (p : Port) (f : Frame) : State :=
  let r := s.port p
  if r.state = .off || Config.partShare ≤ r.partDepth then s
  else s.setPort p (r.add { frame := f, kind := .part, mark := false })

/-! EXC's taking of a raise. -/

/-- Capture: an unmasked raise fills the empty record or sets the further flag (R170). -/
def captureAfter (c : Option Capture) (r : Raise) : Option Capture :=
  match c with
  | none => some { raise := r, further := false }
  | some k => some { k with further := true }

/-- The report port of the notice that an unmasked raise of a class not pending before calls for (R171). -/
def noticePort (t : Tables) (pend : BitVec 18) (c : ExcClass) : Option Port :=
  if !hasClass pend c && t.noticesOn then t.reportPort else none

/-- The pending bits after an unmasked raise (R163). -/
def pendAfter (s : State) (r : Raise) : BitVec 18 := s.exc.pend ||| classBit r.cls

/-- The flags after a raise (R163). -/
def flagsAfter (s : State) (r : Raise) : BitVec 18 := s.exc.flags ||| classBit r.cls

/-- An unmasked raise: flag, pending bit, capture, summary with OUT_ALARM (R163). -/
def markRaise (s : State) (r : Raise) : State :=
  let on := summaryOf (flagsAfter s r) s.active.mask
  let e := { flags := flagsAfter s r, pend := pendAfter s r, capture := captureAfter s.exc.capture r, summary := on }
  (s.setExc e).setOuts { s.outs with alarm := on }

/-- The notice of an unmasked raise, where one is called for (R171, R172). -/
def sendNotice (s : State) (before : BitVec 18) (r : Raise) : State :=
  match noticePort s.active before r.cls with
  | none => s
  | some p => queuePart s p (noticeFrame s.active r s.exc.pend)

/-- EXC takes a raise, whole (R163): flag; then, for an unmasked class, pending bit, capture, notice, summary. -/
def excTake (s : State) (r : Raise) : State :=
  if s.active.masked r.cls then s.setExc { s.exc with flags := flagsAfter s r }
  else sendNotice (markRaise s r) s.exc.pend r

/-! Slots. -/

/-- The record of a slot. -/
def State.slot (s : State) (i : Fin 32) : SlotRec := s.sig.slots.get i

/-- Replaces the record of a slot. -/
def State.setSlot (s : State) (i : Fin 32) (r : SlotRec) : State :=
  s.setSig { s.sig with slots := s.sig.slots.set i.val r }

/-- Age of a slot in ms: 65535 while NEVER, else the time since the last write, held at 65535 (R45). -/
def SlotRec.age (r : SlotRec) (now : Nat) : Nat :=
  if r.fresh = .never then 65535 else min 65535 (now - r.writtenAt)

/-- A SIGNAL condition of a VALID term names slot i (R58). -/
def Tables.termUsesSlot (t : Tables) (i : Fin 32) : Bool :=
  t.itt.toList.any fun img => isValid img && (ittConds img).any fun c =>
    match c with
    | .signal j _ _ _ _ => j == i
    | _ => false

/-- ILK subscribes to slot i (R58). -/
def Tables.ilkSubscribes (t : Tables) (i : Fin 32) : Bool :=
  t.bound .roadSpeed i || t.bound .parkBrake i || t.termUsesSlot i

/-- A channel's REQ role (R55). -/
def reqRole : Channel → Role
  | .main => .reqMain
  | .roll => .reqRoll
  | .aux => .reqAux

/-- Slot i is a channel's confirm switch slot. -/
def DriveCfg.isConfirm (d : DriveCfg) (i : Fin 32) : Bool := d.confirm == some i

/-- Slot i is one of a channel's speed slots. -/
def DriveCfg.isSpeed (d : DriveCfg) (i : Fin 32) : Bool :=
  match d.speeds with
  | none => false
  | some (a, b) => a == i || b == i

/-- DRV subscribes to slot i (R58). -/
def Tables.drvSubscribes (t : Tables) (i : Fin 32) : Bool :=
  Channel.all.any fun c => t.bound (reqRole c) i || (t.drive c).isConfirm i || (t.drive c).isSpeed i

/-- TNK subscribes to slot i (R58). -/
def Tables.tnkSubscribes (t : Tables) (i : Fin 32) : Bool :=
  Tank.all.any (fun k => t.bound (tankRole k) i) || t.bound .intakePressure i || t.bound .reqTankValve i
    || t.bound .reqFill i

/-- The deliveries of a slot event to its subscribers, each of which takes it when it does (R57, R58). -/
def slotDeliveries (t : Tables) (e : SlotEvent) : List Instr :=
  (if t.ilkSubscribes e.slot then [.ilkSlotEvent e] else []) ++ (if t.drvSubscribes e.slot then [.drvSlotEvent e] else [])
    ++ (if t.tnkSubscribes e.slot then [.tnkSlotEvent e] else [])

/-- The stale timer that a write starts, absent for a slot without stale time (R45, R46). -/
def staleStart (t : Tables) (i : Fin 32) (now : Nat) : Option Nat :=
  if t.staleTime i = 0 then none else some (now + t.staleTime i)

/-- The record of a slot after a write (R46). -/
def SlotRec.written (r : SlotRec) (t : Tables) (i : Fin 32) (now : Nat) (v : Raw) (w : Writer) : SlotRec :=
  { r with value := v, fresh := .fresh, writtenAt := now, writer := w, staleAt := staleStart t i now }

/-- The slot-written event of a write (R57). -/
def SlotRec.event (r : SlotRec) (i : Fin 32) (v : Raw) (w : Writer) : SlotEvent :=
  .written i v (if r.fresh = .never then 0 else r.value) r.fresh w

/-- A write to a slot with its slot-written event to every subscriber (R46, R57). -/
def writeSlot (s : State) (i : Fin 32) (v : Raw) (w : Writer) : State :=
  (s.setSlot i ((s.slot i).written s.active i s.now v w)).post (slotDeliveries s.active ((s.slot i).event i v w))

/-- A slot becomes STALE with its slot-stale event to every subscriber (R47, R57). -/
def staleSlot (s : State) (i : Fin 32) : State :=
  (s.setSlot i { s.slot i with fresh := .stale, staleAt := none }).post
    (slotDeliveries s.active (.stale i (s.slot i).value))

/-! Roles (R55). -/

/-- The slot record a role takes; a role bound to NONE behaves as a NEVER slot with value 0 (R55). -/
def State.roleSlot (s : State) (r : Role) : SlotRec :=
  match s.active.role r with
  | none => { }
  | some i => s.slot i

/-! Channels and tanks. -/

/-- The context of a channel. -/
def State.chan (s : State) : Channel → ChannelRec
  | .main => s.drv.main
  | .roll => s.drv.roll
  | .aux => s.drv.aux

/-- Replaces the context of a channel. -/
def State.setChan (s : State) (c : Channel) (r : ChannelRec) : State :=
  s.setDrv (match c with
    | .main => { s.drv with main := r }
    | .roll => { s.drv with roll := r }
    | .aux => { s.drv with aux := r })

/-- The record of a tank. -/
def TnkRec.tank (r : TnkRec) : Tank → TankRec
  | .water => r.water
  | .foamA => r.foamA
  | .foamB => r.foamB

/-- Replaces the record of a tank. -/
def TnkRec.setTank (r : TnkRec) (k : Tank) (v : TankRec) : TnkRec :=
  match k with
  | .water => { r with water := v }
  | .foamA => { r with foamA := v }
  | .foamB => { r with foamB := v }

/-! Privilege and reception. -/

/-- SERVICE privilege: slot 5 is FRESH with value 1 (R61, R180). -/
def State.service (s : State) : Bool := (s.slot 5).fresh == .fresh && (s.slot 5).value == 1

/-- The port receives a frame begun at this time and hands it inward: RUN, not OFF, and the frame begun after the port last
began or resumed reception (R1, R2, R13, R14, log 34). -/
def State.receives (s : State) (p : Port) (begun : Nat) : Bool :=
  s.sys.phase == .run && (s.port p).state != .off && decide ((s.port p).since < begun)

/-- Queues a response on the arrival port of its request (R178). -/
def respond (s : State) (p : Port) (code tag : Byte) (res : Result) (data : List Byte) : State :=
  queuePart s p (responseFrame s.active code tag res data)

/-! Resets. -/

/-- The term results of a reset: UNKNOWN for VALID terms, FALSE for the others (R81). -/
def resetTerms (t : Tables) : Vector Tri 24 := Vector.ofFn fun i => if isValid (t.itt.get i) then .unknown else .ff

/-- A reset of any kind, applied: every block takes the values its chapter gives for every reset, every frame, timer and
undelivered event is lost, a SAVE in flight is abandoned (R194); MGT's shadow state is CLEAN, no record is marked and the last
commit outcome is NONE (R182). Kept: the queue of commands, the clock, the store, the reset cause set, the lines, and, until
start-up sets them, the active set with the shadow set equal to it, the ceilings and the fallback state (R160, R182, log 7).
That every level source is NONE until start-up has loaded the tables that decide it is the model's choice (R146, log 7).
That the ports stand at 250 kbit/s already while the reset is held, and not from its release on, is the model's choice (R15,
log 7). -/
def applyReset (s : State) : State :=
  { pending := s.pending
    now := s.now
    free := s.free
    sys := { s.sys with phase := .reset, readAt := none }
    active := s.active
    mgt := { shadow := s.active }
    sig := { switches := s.sig.switches.map fun w => { line := w.line } }
    ilk := { terms := resetTerms s.active }
    csu := { target := s.csu.target, applied := s.csu.applied } }

/-- Both ports begin to receive: frames begun from now on (R2, R14, log 34). -/
def State.listen (s : State) : State :=
  (s.setPort .cp { s.cp with since := s.now }).setPort .bp { s.bp with since := s.now }

/-- The reset is released: START begins with the store read, and the ports receive (R2, R197). -/
def beginStart (s : State) : State := s.listen.setSys { s.sys with phase := .start, readAt := some s.now }

end Sys2Proof.Machine
end

