-- ==== Sys2Proof/Machine/Exc.lean ====
section
/-! DEFINITION. EXC: the taking of a raise, the mask change of a commit, and what READ_EVENT, CLEAR_EXCEPTIONS and
CLEAR_CAPTURE do to its state (R163 to R176). -/

namespace Sys2Proof.Machine

/-- A delivered raise at EXC (R163). -/
def excRaiseTaking (r : Raise) (s : State) : State := excTake (s.taken (.exceptionRaise r)) r

/-- EXCEPTION_RAISE (R163). -/
def execExceptionRaise (r : Raise) (s : State) : Host.Outcome State Fault Refusal := .next (s.inRun (excRaiseTaking r))

/-- Sets the alarm summary and OUT_ALARM, which follows it in the same event (R166). -/
def State.setSummary (s : State) (on : Bool) : State :=
  (s.setExc { s.exc with summary := on }).setOuts { s.outs with alarm := on }

/-- A commit that changes EXCEPTION_MASK: newly masked classes lose their pending bit, the summary is taken anew; a commit
that leaves the mask changes nothing (R168). -/
def maskChange (s : State) (before : BitVec 18) : State :=
  if before = s.active.mask then s
  else
    (s.setExc { s.exc with pend := s.exc.pend &&& (before ||| ~~~s.active.mask) }).setSummary
      (summaryOf s.exc.flags s.active.mask)

/-- READ_EVENT's effect: the highest-precedence pending bit is cleared (R173). -/
def readHighest (s : State) : State := s.setExc { s.exc with pend := dropHighest s.exc.pend }

/-- CLEAR_EXCEPTIONS' effect (R175). -/
def clearFlags (s : State) : State := (s.setExc { s.exc with flags := 0, pend := 0 }).setSummary false

/-- CLEAR_CAPTURE's effect (R176). -/
def emptyCapture (s : State) : State := s.setExc { s.exc with capture := none }

end Sys2Proof.Machine
end

