-- ==== Sys2Proof/Machine/Csu.lean ====
section
/-! DEFINITION. CSU: the ceilings (R149 to R154), one taking (R155), supervision (R156 to R158), commit and the beginning of
RUN (R159, R160). -/

namespace Sys2Proof.Machine

/-- R149: the target is IDLE_CEIL. -/
def idles (c : CsuRec) : Bool :=
  c.sup == .lapsed
    || (match c.mode with
        | .road | .parked | .conflict => true
        | .pumpStatic => c.main != .engaged
        | .pumpRoll => c.roll != .engaged)
    || (c.supply == .tank && (c.band == .empty || c.band == .unknown))

/-- The ceiling of the pumping mode (R150). -/
def pumpingCeil (t : Tables) (m : Mode) : Raw := if m = .pumpStatic then t.pumpCeil else t.rollCeil

/-- The lesser of two ceilings. -/
def lesser (a b : Raw) : Raw := if a.toNat ≤ b.toNat then a else b

/-- The target ceiling (R149, R150). -/
def targetOf (t : Tables) (c : CsuRec) : Raw :=
  if idles c then t.idleCeil
  else if c.supply = .tank ∧ c.band = .low then lesser (pumpingCeil t c.mode) t.lowTankCeil
  else pumpingCeil t c.mode

/-- Steps 3 and 4 of a taking: target, applied ceiling, ramp timer (R149 to R151). -/
def applyTarget (t : Tables) (now : Nat) (c : CsuRec) : CsuRec :=
  let target := targetOf t c
  if target.toNat < c.applied.toNat then { c with target := target, applied := target, ramp := none }
  else if target = c.applied then { c with target := target, ramp := none }
  else { c with target := target, ramp := some (c.ramp.getD (now + t.rampInterval)) }

/-- A ceiling fall is delivered where step 4 lowered the applied ceiling (R151, R154). -/
def fallDelivery (t : Tables) (c : CsuRec) : List Instr :=
  if (targetOf t c).toNat < c.applied.toNat then [.ceilingFall] else []

/-- Steps 3 and 4 of a taking, c being CSU's state after steps 1 and 2, and the ceiling fall (R155). -/
def csuFinish (s : State) (c : CsuRec) : State :=
  (s.setCsu (applyTarget s.active s.now c)).post (fallDelivery s.active c)

/-- Step 1 of a delivery, with step 2 where the mode becomes ROAD: supervision is disarmed (R148, R158). -/
def heldInput (c : CsuRec) : CsuInput → CsuRec
  | .mode m => if m = .road then { c with mode := m, sup := .disarmed, supTimer := none } else { c with mode := m }
  | .drive .main st => { c with main := st }
  | .drive .roll st => { c with roll := st }
  | .drive .aux _ => c
  | .supply v => { c with supply := v }
  | .waterBand b => { c with band := b }

/-- A delivered input at CSU (R148). -/
def csuInputTaking (d : CsuInput) (s0 : State) : State :=
  let s := s0.taken (.csuInputDelivery d)
  csuFinish s (heldInput s.csu d)

/-- CSU_INPUT_DELIVERY (R148). -/
def execCsuInputDelivery (d : CsuInput) (s : State) : Host.Outcome State Fault Refusal := .next (s.inRun (csuInputTaking d))

/-- A heartbeat at supervision (R156). LAPSED with ROAD held cannot arise and is left as it is. -/
def beat (t : Tables) (now : Nat) (c : CsuRec) : CsuRec :=
  if c.mode = .road ∧ c.sup ≠ .armed then c
  else { c with sup := .armed, supTimer := some (now + t.supervisionTimeout) }

/-- A delivered heartbeat at CSU (R156). -/
def csuBeatTaking (s0 : State) : State :=
  let s := s0.taken .heartbeat
  csuFinish s (beat s.active s.now s.csu)

/-- HEARTBEAT (R156). -/
def execHeartbeat (s : State) : Host.Outcome State Fault Refusal := .next (s.inRun csuBeatTaking)

/-- The supervision timer of an ARMED supervision expires: LAPSED, SUPERVISION_LOST, the lapse delivered to DRV (R157). -/
def supervisionEnd (s : State) : State :=
  match s.csu.sup, s.csu.supTimer with
  | .armed, some t =>
    csuFinish
      ((s.clock t).post [.exceptionRaise { cls := .supervisionLost, mode := s.csu.mode }, .supervisionLapse])
      { s.csu with sup := .lapsed, supTimer := none }
  | _, _ => s

/-- SUPERVISION_TIMER_EXPIRY (R157). -/
def execSupervisionTimerExpiry (s : State) : Host.Outcome State Fault Refusal := .next (s.inRun supervisionEnd)

/-- The applied ceiling after a ramp step, held at the target (R152). -/
def rampUp (t : Tables) (c : CsuRec) : Raw :=
  if c.applied.toNat + t.rampStep < c.target.toNat then c.applied + BitVec.ofNat 16 t.rampStep
  else if c.applied.toNat ≤ c.target.toNat then c.target else c.applied

/-- The ramp timer expires (R152). -/
def rampEnd (s : State) : State :=
  match s.csu.ramp with
  | none => s
  | some t => csuFinish (s.clock t) { s.csu with applied := rampUp s.active s.csu, ramp := none }

/-- RAMP_EXPIRY (R152). -/
def execRampExpiry (s : State) : Host.Outcome State Fault Refusal := .next (s.inRun rampEnd)

/-- CSU takes a commit, or the beginning of RUN (R159, R160). -/
def csuCommit (s : State) : State := csuFinish s s.csu

/-- Both ceilings at the IDLE_CEIL of the tables that start-up makes active (R160). -/
def csuBegin (s : State) : State :=
  s.setCsu { s.csu with target := s.active.idleCeil, applied := s.active.idleCeil }

end Sys2Proof.Machine
end

