-- ==== Sys2Proof/Machine/Ilk.lean ====
section
/-! DEFINITION. ILK: conditions with the results they hold (R68 to R75), terms (R76 to R81), and the vehicle mode machine
(R82 to R90). -/

namespace Sys2Proof.Machine

/-- TRUE or FALSE. -/
def Tri.ofBool (b : Bool) : Tri := if b then .tt else .ff

/-! SIGNAL conditions. -/

/-- The plain comparison (R72). -/
def plain (rel : Rel) (lo hi v : Raw) : Bool :=
  match rel with
  | .lt => v.toNat < lo.toNat
  | .ge => lo.toNat ≤ v.toNat
  | .eq => v == lo
  | .ne => v != lo
  | .inside => lo.toNat ≤ v.toNat && v.toNat ≤ hi.toNat

/-- The result of a SIGNAL condition after a write of v, from its remembered result (R71 to R75). Sums are taken in full,
and lo - h is 0 where h is greater. -/
def afterWrite (rel : Rel) (lo h hi : Raw) (mem : Tri) (v : Raw) : Tri :=
  match rel, mem with
  | .lt, .tt => Tri.ofBool (v.toNat < lo.toNat + h.toNat)
  | .ge, .ff => Tri.ofBool (lo.toNat + h.toNat ≤ v.toNat)
  | .inside, .tt => Tri.ofBool (lo.toNat - h.toNat ≤ v.toNat && v.toNat ≤ hi.toNat + h.toNat)
  | _, _ => Tri.ofBool (plain rel lo hi v)

/-- The remembered result of condition c after a slot event: the event reaches the SIGNAL conditions on its slot (R71). -/
def memAfterEvent (e : SlotEvent) (c : Cond) (mem : Tri) : Tri :=
  match c with
  | .signal i rel lo h hi =>
    if i = e.slot then
      (match e with
        | .written _ v _ _ _ => afterWrite rel lo h hi mem v
        | .stale _ _ => .unknown)
    else mem
  | _ => mem

/-- The result of a SIGNAL condition recomputed from its slot as it stands (R80). -/
def signalResult (s : State) (i : Fin 32) (rel : Rel) (lo hi : Raw) : Tri :=
  if (s.slot i).fresh = .fresh then Tri.ofBool (plain rel lo hi (s.slot i).value) else .unknown

/-- The result of a MODE, DRIVE, BAND or SUPPLY condition from its input as it stands (R69, log 13). The two kinds that have no
such input give UNKNOWN, the result of a SIGNAL condition before any write (R81). -/
def inputResult (s : State) : Cond → Tri
  | .signal _ _ _ _ _ | .term _ => .unknown
  | .mode set => Tri.ofBool (set.getLsbD (modeCode s.ilk.mode))
  | .drive c set => Tri.ofBool (set.getLsbD (driveCode (s.chan c).state))
  | .band k set =>
    if set.getLsbD (bandCode (s.tnk.tank k).band) then .tt
    else if (s.tnk.tank k).band = .unknown then .unknown else .ff
  | .supply v => Tri.ofBool (s.tnk.supply == v)

/-- A condition's result taken anew at a commit (R80). -/
def commitResult (s : State) (c : Cond) : Tri :=
  match c with
  | .signal i rel lo _ hi => signalResult s i rel lo hi
  | _ => inputResult s c

/-- The conditions of term t in the active table: those of a VALID term, none for the others (R67). -/
def Tables.conds (t : Tables) (i : Fin 24) : List Cond := if isValid (t.itt.get i) then ittConds (t.itt.get i) else []

/-- Replaces the results that conditions hold. -/
def State.setMem (s : State) (m : Vector (Vector Tri 4) 24) : State := s.setIlk { s.ilk with mem := m }

/-- The result held at place j of term t, f applied: f gets the condition and the result held; a place without a condition
holds UNKNOWN. Where ILK takes a band or supply change of a COMMIT before its own commit step, which R192 allows, the condition is
one of the new table and the result held is the one that stands at the same place from the old table. R80 says nothing of that
taking, and this is the model's choice (DESIGN CHOICE, log 41). -/
def memAt (s : State) (f : Cond → Tri → Tri) (t : Fin 24) (j : Fin 4) : Tri :=
  match (s.active.conds t)[j.val]? with
  | none => .unknown
  | some c => f c ((s.ilk.mem.get t).get j)

/-- Every result held by a condition replaced by f. -/
def memMap (s : State) (f : Cond → Tri → Tri) : Vector (Vector Tri 4) 24 :=
  Vector.ofFn fun t => Vector.ofFn fun j => memAt s f t j

/-! Terms. -/

/-- The result of a condition: a TERM condition passes the named term's result, from the results computed so far; any other
has the result it holds, mem (R69, R77). -/
def condResult (results : Vector Tri 24) (mem : Tri) : Cond → Tri
  | .term t => results.get t
  | .signal _ _ _ _ _ | .mode _ | .drive _ _ | .band _ _ | .supply _ => mem

/-- The combiner ALL (R76). -/
def combineAll (rs : List Tri) : Tri :=
  if rs.contains .ff then .ff else if rs.contains .unknown then .unknown else .tt

/-- The combiner ANY (R76). -/
def combineAny (rs : List Tri) : Tri :=
  if rs.contains .tt then .tt else if rs.contains .unknown then .unknown else .ff

/-- The results of term t's conditions, in list order. -/
def condResults (s : State) (results : Vector Tri 24) (t : Fin 24) : List Tri :=
  (s.active.conds t).zipIdx.map fun (c, j) => condResult results ((s.ilk.mem.get t).toList.getD j .unknown) c

/-- The result of term t: FALSE where it is not VALID (R67), else its conditions combined (R76). -/
def termResult (s : State) (results : Vector Tri 24) (t : Fin 24) : Tri :=
  if isValid (s.active.itt.get t) then
    (if ittAny (s.active.itt.get t) then combineAny (condResults s results t)
      else combineAll (condResults s results t))
  else .ff

/-- Every term's result, computed in rising index order, each from the results of lower terms (R77). -/
def allResults (s : State) : Vector Tri 24 :=
  (List.finRange 24).foldl (fun rs t => rs.set t.val (termResult s rs t)) s.ilk.terms

/-- The deliveries of one term across a taking: a rise or a fall, to FRE and to DRV, or none (R78). -/
def termDelivery (t : Fin 24) (before after : Tri) : List Instr :=
  if before ≠ .tt ∧ after = .tt then [.termRiseAtFre t, .permitTermRise t]
  else if before = .tt ∧ after ≠ .tt then [.termFallAtFre t, .permitTermFall t]
  else []

/-- The deliveries of every term, in rising term index order (R78). A term that was TRUE and that a commit makes EMPTY delivers
a fall by R78 and R80, where R67 has a term that is not VALID deliver none: the model's choice (log 38). -/
def termDeliveries (before after : Vector Tri 24) : List Instr :=
  (List.finRange 24).flatMap fun t => termDelivery t (before.get t) (after.get t)

/-- Recomputes every VALID term and delivers the rises and falls (R77, R78). -/
def recompute (s : State) : State :=
  (s.setIlk { s.ilk with terms := allResults s }).post (termDeliveries s.ilk.terms (allResults s))

/-! The vehicle mode. -/

/-- BRAKE (R84). -/
def brake (s : State) : Bool := (s.roleSlot .parkBrake).fresh == .fresh && (s.roleSlot .parkBrake).value != 0

/-- OVERSPEED (R85). -/
def overspeed (s : State) : Bool :=
  (s.roleSlot .roadSpeed).fresh != .fresh || s.active.rollSpeedMax < (s.roleSlot .roadSpeed).value.toNat

/-- MAIN active, ROLL active (R86). -/
def chanActive (s : State) (c : Channel) : Bool := (s.chan c).state != .disengaged

/-- The table of R87. -/
def modeTable (main roll parked fast : Bool) : Mode :=
  match main, roll, parked, fast with
  | true, true, _, _ => .conflict
  | true, false, true, _ => .pumpStatic
  | true, false, false, _ => .conflict
  | false, true, _, false => .pumpRoll
  | false, true, _, true => .conflict
  | false, false, true, _ => .parked
  | false, false, false, _ => .road

/-- The mode that the inputs give as they stand (R87). -/
def modeNow (s : State) : Mode :=
  modeTable (chanActive s .main) (chanActive s .roll) (s.ilk.stopped && brake s) (overspeed s)

/-- The STOPPED latch under a FRESH speed v (R83). -/
def stoppedAt (t : Tables) (before : Bool) (v : Raw) : Bool :=
  if v.toNat ≤ t.stopSpeed then true else if t.stopSpeed + t.stopHyst < v.toNat then false else before

/-- Replaces the STOPPED latch. -/
def State.setStopped (s : State) (b : Bool) : State := s.setIlk { s.ilk with stopped := b }

/-- The STOPPED latch after a slot event: only the events of the slot bound to ROAD_SPEED reach it (R83). -/
def latchAfterEvent (s : State) (e : SlotEvent) : Bool :=
  if s.active.bound .roadSpeed e.slot then
    (match e with
      | .written _ v _ _ _ => stoppedAt s.active s.ilk.stopped v
      | .stale _ _ => false)
  else s.ilk.stopped

/-- The mode is brought up to date; a change is delivered to CSU, and an entry to CONFLICT is raised (R87 to R89). -/
def takeMode (s : State) : State :=
  let m := modeNow s
  if m = s.ilk.mode then s
  else
    let s1 := (s.setIlk { s.ilk with mode := m }).post [.csuInputDelivery (.mode m)]
    if m = .conflict then s1.raise { cls := .modeConflict, mode := .conflict } else s1

/-! Takings. -/

/-- The conditions that the event reaches take their inputs, and the MODE conditions where the taking changed the mode from
before; every other condition keeps its result (R77). f is what the event does to the other conditions. -/
def reachConds (s : State) (before : Mode) (f : Cond → Tri → Tri) (c : Cond) (mem : Tri) : Tri :=
  match c with
  | .mode _ => if s.ilk.mode = before then mem else inputResult s c
  | _ => f c mem

/-- The end of a taking: conditions, then terms (R77). -/
def takeConds (s : State) (before : Mode) (f : Cond → Tri → Tri) : State :=
  recompute (s.setMem (memMap s (reachConds s before f)))

/-- ILK takes a slot event: latch and mode where it reaches them, conditions, terms (R77, R86). -/
def ilkTakeSlot (s : State) (e : SlotEvent) : State :=
  let s1 := s.setStopped (latchAfterEvent s e)
  let s2 := if s.active.bound .roadSpeed e.slot || s.active.bound .parkBrake e.slot then takeMode s1 else s1
  takeConds s2 s.ilk.mode (memAfterEvent e)

/-- A delivered slot event at ILK (R71, R77). -/
def ilkSlotTaking (e : SlotEvent) (s : State) : State := ilkTakeSlot (s.taken (.ilkSlotEvent e)) e

/-- ILK_SLOT_EVENT (R71, R77). -/
def execIlkSlotEvent (e : SlotEvent) (s : State) : Host.Outcome State Fault Refusal := .next (s.inRun (ilkSlotTaking e))

/-- A state change of channel d at a condition: the DRIVE conditions on d (R77). -/
def driveReach (s : State) (d : Channel) (c : Cond) (mem : Tri) : Tri :=
  match c with
  | .drive k _ => if k = d then inputResult s c else mem
  | _ => mem

/-- A band change of tank k at a condition: the BAND conditions on k (R77). -/
def bandReach (s : State) (k : Tank) (c : Cond) (mem : Tri) : Tri :=
  match c with
  | .band j _ => if j = k then inputResult s c else mem
  | _ => mem

/-- A change of the supply at a condition: every SUPPLY condition (R77). -/
def supplyReach (s : State) (c : Cond) (mem : Tri) : Tri :=
  match c with
  | .supply _ => inputResult s c
  | _ => mem

/-- ILK takes a state change of a channel: the mode where it is MAIN or ROLL, then conditions and terms (R77, R86). -/
def ilkTakeDrive (s : State) (c : Channel) : State :=
  let s1 := if c = .aux then s else takeMode s
  takeConds s1 s.ilk.mode (driveReach s1 c)

/-- A delivered state change of a channel at ILK (R86). -/
def ilkDriveTaking (c : Channel) (s : State) : State := ilkTakeDrive (s.taken (.ilkDriveStateChange c)) c

/-- ILK_DRIVE_STATE_CHANGE (R86). -/
def execIlkDriveStateChange (c : Channel) (s : State) : Host.Outcome State Fault Refusal :=
  .next (s.inRun (ilkDriveTaking c))

/-- A delivered band change of a tank at ILK (R77). -/
def ilkBandTaking (k : Tank) (s0 : State) : State :=
  let s := s0.taken (.ilkBandChange k)
  takeConds s s.ilk.mode (bandReach s k)

/-- ILK_BAND_CHANGE (R77). -/
def execIlkBandChange (k : Tank) (s : State) : Host.Outcome State Fault Refusal := .next (s.inRun (ilkBandTaking k))

/-- A delivered change of the supply at ILK (R77). -/
def ilkSupplyTaking (s0 : State) : State :=
  let s := s0.taken .ilkSupplyChange
  takeConds s s.ilk.mode (supplyReach s)

/-- ILK_SUPPLY_CHANGE (R77). -/
def execIlkSupplyChange (s : State) : Host.Outcome State Fault Refusal := .next (s.inRun ilkSupplyTaking)

/-- The STOPPED latch taken anew at a commit (R90). -/
def latchAtCommit (s : State) : Bool :=
  if (s.roleSlot .roadSpeed).fresh = .fresh then stoppedAt s.active s.ilk.stopped (s.roleSlot .roadSpeed).value
  else false

/-- ILK takes a commit (R80, R90). The rises and falls are against the results as this taking finds them; where ILK has taken a
band or supply change of the commit before it, those are the results which that taking left, the model's choice (DESIGN CHOICE,
log 41). -/
def ilkCommit (s : State) : State :=
  let s1 := takeMode (s.setStopped (latchAtCommit s))
  recompute (s1.setMem (memMap s1 fun c _ => commitResult s1 c))

/-- ILK takes the beginning of RUN: every SIGNAL condition UNKNOWN, every other from its input, every VALID term UNKNOWN, one
recomputation (R81). -/
def ilkBegin (s : State) : State :=
  recompute (s.setIlk { s.ilk with mem := memMap s fun c _ => inputResult s c, terms := resetTerms s.active })

end Sys2Proof.Machine
end

