-- ==== Sys2Proof/Machine/Sig.lean ====
section
/-! DEFINITION. SIG: stale timers (R47), switch inputs (R59, R60), pulse inputs (R62 to R65), extractions (R49 to R52), and
what SIG takes of a commit (R54, R60, R65) and of the beginning of RUN (R59, R62). -/

namespace Sys2Proof.Machine

/-- Replaces the record of a switch input. -/
def State.setSwitch (s : State) (sw : Fin 6) (r : SwitchRec) : State :=
  s.setSig { s.sig with switches := s.sig.switches.set sw.val r }

/-- Replaces the record of a pulse input. -/
def State.setPulse (s : State) (pi : Fin 4) (r : PulseRec) : State :=
  s.setSig { s.sig with pulses := s.sig.pulses.set pi.val r }

/-! Stale timers. -/

/-- The stale timer of a FRESH slot expires (R47). -/
def staleExpiry (s : State) (i : Fin 32) : State :=
  match (s.slot i).fresh, (s.slot i).staleAt with
  | .fresh, some t => staleSlot (s.clock t) i
  | _, _ => s

/-- STALE_TIMER_EXPIRY (R47). -/
def execStaleTimerExpiry (i : Fin 32) (s : State) : Host.Outcome State Fault Refusal :=
  .next (s.inRun fun s => staleExpiry s i)

/-! Switch inputs. -/

/-- The value a switch slot is written with (R60). -/
def switchValue (inverted level : Bool) : Raw := if level != inverted then 1 else 0

/-- A line takes a level. In RUN a change restarts the debounce timer (R59); before RUN the lines are not read (R48). -/
def levelChange (s : State) (sw : Fin 6) (high : Bool) : State :=
  let r := s.sig.switches.get sw
  if r.line = high then s
  else if s.sys.phase = .run then
    s.setSwitch sw { r with line := high, timer := some (s.now + s.active.debounce sw) }
  else s.setSwitch sw { r with line := high }

/-- SWITCH_LEVEL_CHANGE (R59). -/
def execSwitchLevelChange (sw : Fin 6) (high : Bool) (s : State) : Host.Outcome State Fault Refusal :=
  .next (levelChange s sw high)

/-- The debounce timer of a switch input expires (R59). -/
def debounceEnd (s : State) (sw : Fin 6) : State :=
  let r := s.sig.switches.get sw
  match r.timer with
  | none => s
  | some t =>
    let s1 := s.clock t
    if r.accepted = some r.line then s1.setSwitch sw { r with timer := none }
    else
      writeSlot (s1.setSwitch sw { r with accepted := some r.line, timer := none }) (switchSlot sw)
        (switchValue (s.active.inverted sw) r.line) .line

/-- DEBOUNCE_EXPIRY (R59). -/
def execDebounceExpiry (sw : Fin 6) (s : State) : Host.Outcome State Fault Refusal :=
  .next (s.inRun fun s => debounceEnd s sw)

/-! Pulse inputs. -/

/-- The volume unit of a counted unit: one for the bound tank, none for NONE (R64). -/
def volumeDelivery (t : Tables) (pi : Fin 4) : List Instr :=
  match t.boundTank pi with
  | none => []
  | some k => [.volumeUnit k]

/-- A counted unit: the slot's value plus 1 is written, and the volume unit is delivered (R64). -/
def countUnit (s : State) (pi : Fin 4) : State :=
  (writeSlot s (pulseSlot pi) ((s.slot (pulseSlot pi)).value + 1) .line).post (volumeDelivery s.active pi)

/-- A rising edge of a pulse input (R62 to R64). -/
def risingEdge (s : State) (pi : Fin 4) : State :=
  let r := s.sig.pulses.get pi
  match s.active.pulseMode pi with
  | .off => s
  | .speed => s.setPulse pi { r with count := r.count + 1 }
  | .count =>
    if s.active.divisor pi ≤ r.count + 1 then countUnit (s.setPulse pi { r with count := 0 }) pi
    else s.setPulse pi { r with count := r.count + 1 }

/-- PULSE_EDGE (R64). -/
def execPulseEdge (pi : Fin 4) (s : State) : Host.Outcome State Fault Refusal :=
  .next (s.inRun fun s => risingEdge s pi)

/-- The record of a pulse input whose window has ended at this time: count 0 and the next window running, with the pending
length where there is one (R63). -/
def PulseRec.nextWindow (r : PulseRec) (now : Nat) : PulseRec :=
  let len := r.pendingLen.getD r.windowLen
  { count := 0, windowEnd := some (now + len), windowLen := len, pendingLen := none }

/-- A window of a pulse input in SPEED ends (R63). -/
def windowEnds (s : State) (pi : Fin 4) : State :=
  let r := s.sig.pulses.get pi
  match r.windowEnd with
  | none => s
  | some t =>
    let s1 := writeSlot (s.clock t) (pulseSlot pi) (BitVec.ofNat 16 (min r.count 65535)) .line
    s1.setPulse pi (r.nextWindow (s.clock t).now)

/-- WINDOW_EXPIRY (R63). -/
def execWindowExpiry (pi : Fin 4) (s : State) : Host.Outcome State Fault Refusal :=
  .next (s.inRun fun s => windowEnds s pi)

/-! Extractions. -/

/-- An extraction lies in range for a frame of this length (R49). -/
def Extraction.fits (x : Extraction) (len : Nat) : Bool := inRange len x.start x.len

/-- The value an extraction reads (R49). -/
def Extraction.value (x : Extraction) (data : List Byte) : Raw := BitVec.ofNat 16 (readField data x.start x.len)

/-- The FIELD_RANGE raise of an out-of-range extraction or patch, with the mode that ILK holds as it is made (R30, R50, R51,
R162, log 37). -/
def fieldRange (s : State) (p : Port) (f : Frame) (e : Fin 96) : Raise :=
  { cls := .fieldRange, mode := s.ilk.mode, port := some p, frame := some f, entry := some e }

/-- The raises of a frame's out-of-range extractions, in list order (R50, R51). -/
def rangeRaises (s : State) (p : Port) (f : Frame) (e : Fin 96) (xs : List Extraction) : List Instr :=
  (xs.filter fun x => !x.fits f.data.length).map fun _ => .exceptionRaise (fieldRange s p f e)

/-- The extractions of a frame that are written: none where one is out of range and FIELD_RANGE is unmasked (R50), else
those in range (R51). -/
def writtenExtractions (t : Tables) (len : Nat) (xs : List Extraction) : List Extraction :=
  if xs.all (·.fits len) || t.masked .fieldRange then xs.filter (·.fits len) else []

/-- The frame goes on after extraction (R50, R51). -/
def goesOn (t : Tables) (len : Nat) (xs : List Extraction) : Bool :=
  xs.all (·.fits len) || t.masked .fieldRange

/-! Commit and the beginning of RUN. -/

/-- A commit's new stale time for an extraction slot (R54). -/
def staleTimeChange (before : Tables) (s : State) (i : Fin 32) : State :=
  let n := s.active.staleTime i
  let r := s.slot i
  if n = before.staleTime i then s
  else if n = 0 then s.setSlot i { r with staleAt := none }
  else if r.fresh = .fresh then
    if r.writtenAt + n ≤ s.now then staleSlot s i else s.setSlot i { r with staleAt := some (r.writtenAt + n) }
  else s

/-- A commit's new inversion for a switch slot (R60). -/
def inversionChange (before : Tables) (s : State) (sw : Fin 6) : State :=
  if s.active.inverted sw = before.inverted sw then s
  else
    match (s.sig.switches.get sw).accepted with
    | none => s
    | some level => writeSlot s (switchSlot sw) (switchValue (s.active.inverted sw) level) .line

/-- The record of a pulse input that begins to run in its mode (R62, R65). -/
def pulseStart (t : Tables) (pi : Fin 4) (now : Nat) : PulseRec :=
  { windowEnd := if t.pulseMode pi = .speed then some (now + t.window pi) else none
    windowLen := if t.pulseMode pi = .speed then t.window pi else 0 }

/-- A commit's new configuration of a pulse input (R65). -/
def pulseChange (before : Tables) (s : State) (pi : Fin 4) : State :=
  let r := s.sig.pulses.get pi
  if s.active.pulseMode pi ≠ before.pulseMode pi then
    (s.setPulse pi (pulseStart s.active pi s.now)).setSlot (pulseSlot pi) { }
  else
    match s.active.pulseMode pi with
    | .off => s
    | .speed =>
      if s.active.window pi = before.window pi then s
      else s.setPulse pi { r with pendingLen := some (s.active.window pi) }
    | .count =>
      if s.active.divisor pi = before.divisor pi then s else s.setPulse pi { r with count := 0 }

/-- SIG takes a commit, slot by slot in rising order (R54, R60, R65, R192). -/
def sigCommit (before : Tables) (s : State) : State :=
  let s1 := (List.finRange 6).foldl (inversionChange before) s
  let s2 := (List.finRange 4).foldl (pulseChange before) s1
  ((List.finRange 32).drop 10).foldl (staleTimeChange before) s2

/-- SIG takes the beginning of RUN: every debounce timer starts, and every window of an input in SPEED (R59, R62). -/
def sigBegin (s : State) : State :=
  s.setSig { s.sig with
    switches := Vector.ofFn fun sw =>
      { s.sig.switches.get sw with timer := some (s.now + s.active.debounce sw) }
    pulses := Vector.ofFn fun pi => pulseStart s.active pi s.now }

end Sys2Proof.Machine
end

