-- ==== Sys2Proof/Machine/Fre.lean ====
section
/-! DEFINITION. FRE: forwarding and the actions of an entry (R21, R24 to R28), the Hold Buffer (R34 to R40), the reissue records
(R42 to R44), and what FRE takes of a commit. -/

namespace Sys2Proof.Machine

/-- The FRT entry with this index. -/
def State.entry (s : State) (e : Fin 96) : Image20 := s.active.frt.get e

/-- The result of a term as ILK holds it (R79). -/
def State.term (s : State) (t : Fin 24) : Tri := s.ilk.terms.get t

/-- Replaces the Hold Buffer. -/
def State.setHold (s : State) (h : List HeldFrame) : State := s.setFre { s.fre with hold := h }

/-- Replaces a reissue record. -/
def State.setReissue (s : State) (k : Fin 16) (r : Option ReissueRec) : State :=
  s.setFre { s.fre with reissue := s.fre.reissue.set k.val r }

/-! Forwarding. -/

/-- The queuing request for a frame handled under entry e (R28). -/
def forwardRequest (s : State) (f : Frame) (p : Port) (e : Fin 96) : ForwardRequest :=
  { frame := f, arrival := p, entry := some e, mark := frtCoalesce (s.entry e) }

/-- The reissue record that a frame forwarded through a template writes (R42): raw CLAMP values from the frame before the
template. -/
def reissueRec (s : State) (img : Image20) (before after : Frame) (p : Port) (e : Fin 96) : ReissueRec :=
  { frame := after, clamps := clampFields (rttPatches img) before.data, target := p.other, arrival := p, entry := e,
    time := s.now }

/-- Forwards a frame handled under entry e, through a template or unchanged (R28, R30, R42). A FIELD_RANGE raised here carries
ILK's mode as it stands now, after step 1 of the frame being handled (log 37). -/
def forwardVia (s : State) (k : Option (Fin 16)) (f : Frame) (p : Port) (e : Fin 96) : State :=
  match k with
  | none => queueForwarded s p.other (forwardRequest s f p e)
  | some k =>
    let img := s.active.rtt.get k
    match applyTemplate img s.csu.applied.toNat f with
    | none => s.raise (fieldRange s p f e)
    | some g =>
      let s1 := queueForwarded s p.other (forwardRequest s g p e)
      if rttReissue img then s1.setReissue k (some (reissueRec s img f g p e)) else s1

/-- The closed treatment's substitution or discard (R26). -/
def substitute (s : State) (f : Frame) (p : Port) (e : Fin 96) : State :=
  match frtClosed (s.entry e) with
  | none => s
  | some k => forwardVia s (some k) f p e

/-- A raise that carries port, frame, entry and term (R162). That its mode is ILK's when FRE makes the raise, so after the
extraction of a frame that changes the mode itself, is the model's choice (log 37). -/
def gateRaise (s : State) (cls : ExcClass) (f : Frame) (p : Port) (e : Fin 96) (t : Fin 24) (why : Option Reason) : Raise :=
  { cls := cls, mode := s.ilk.mode, port := some p, frame := some f, entry := some e, term := some t, reason := why }

/-- STALE_GATE for UNKNOWN, LOCKOUT for any other result (R26). -/
def closedClass (result : Tri) : ExcClass := if result = .unknown then .staleGate else .lockout

/-- The closed treatment of a frame (R26). That what the substitution does comes before the report is the model's choice
(log 29). -/
def closedTreatment (s : State) (f : Frame) (p : Port) (e : Fin 96) (t : Fin 24) (result : Tri) : State :=
  let s1 := substitute s f p e
  if frtReport (s.entry e) then s1.raise (gateRaise s (closedClass result) f p e t none) else s1

/-! The Hold Buffer. -/

/-- A held frame with this identifier from this entry. -/
def HeldFrame.same (h : HeldFrame) (id : Ident) (e : Fin 96) : Bool := h.frame.ident == id && h.entry == e

/-- The held frame after a supersede: new content, same place and deadline (R36). -/
def HeldFrame.superseded (h : HeldFrame) (f : Frame) (p : Port) : HeldFrame := { h with frame := f, arrival := p }

/-- A frame that cannot be held: closed treatment, and HOLD_DISCARD with reason OVERFLOW (R37). That the treatment's LOCKOUT or
STALE_GATE is raised before HOLD_DISCARD is the model's choice (log 29). -/
def holdOverflow (s : State) (f : Frame) (p : Port) (e : Fin 96) (t : Fin 24) : State :=
  (closedTreatment s f p e t (s.term t)).raise (gateRaise s .holdDiscard f p e t (some .overflow))

/-- The holder of a frame placed now (R35). -/
def placed (s : State) (f : Frame) (p : Port) (e : Fin 96) (t : Fin 24) : HeldFrame :=
  { frame := f, arrival := p, entry := e, term := t, deadline := s.now + frtHoldTime (s.entry e) }

/-- A frame offered to the Hold Buffer: superseding, not held, or placed (R35 to R37). -/
def offerHold (s : State) (f : Frame) (p : Port) (e : Fin 96) (t : Fin 24) : State :=
  let h := s.fre.hold
  if h.any fun x => x.same f.ident e then
    s.setHold (h.map fun x => if x.same f.ident e then x.superseded f p else x)
  else if (h.any fun x => x.frame.ident == f.ident) || Config.holders ≤ h.length then holdOverflow s f p e t
  else s.setHold (h ++ [placed s f p e t])

/-- A held frame is released through its entry's open template (R38). -/
def releaseOne (s : State) (h : HeldFrame) : State := forwardVia s (frtOpen (s.entry h.entry)) h.frame h.arrival h.entry

/-- FRE takes a rise of term t (R38). -/
def takeRise (s : State) (t : Fin 24) : State :=
  if s.term t = .tt then
    (s.fre.hold.filter fun h => h.term == t).foldl releaseOne (s.setHold (s.fre.hold.filter fun h => h.term != t))
  else s

/-- A delivered rise of a term at FRE (R38). -/
def freRiseTaking (t : Fin 24) (s : State) : State := takeRise (s.taken (.termRiseAtFre t)) t

/-- TERM_RISE_AT_FRE (R38). -/
def execTermRiseAtFre (t : Fin 24) (s : State) : Host.Outcome State Fault Refusal := .next (s.inRun (freRiseTaking t))

/-- A delivered fall of a term at FRE: the held frames are left as they are (R38). -/
def freTermFallTaking (t : Fin 24) (s : State) : State := s.taken (.termFallAtFre t)

/-- TERM_FALL_AT_FRE (R38). -/
def execTermFallAtFre (t : Fin 24) (s : State) : Host.Outcome State Fault Refusal := .next (s.inRun (freTermFallTaking t))

/-- The deadline of a held frame is reached (R39). HOLD_DISCARD is raised after the treatment's own class (log 29). -/
def holdExpiry (s : State) (h : HeldFrame) : State :=
  let s1 := (s.clock h.deadline).setHold (s.fre.hold.erase h)
  (closedTreatment s1 h.frame h.arrival h.entry h.term (s1.term h.term)).raise
    (gateRaise s1 .holdDiscard h.frame h.arrival h.entry h.term (some .expired))

/-- The deadline of the held frame with this identifier is reached; with none held the deadline does not exist. -/
def holdDeadline (s : State) (ident : Ident) : State :=
  match s.fre.hold.find? fun h => h.frame.ident == ident with
  | none => s
  | some h => holdExpiry s h

/-- HOLD_DEADLINE_EXPIRY (R39). -/
def execHoldDeadlineExpiry (ident : Ident) (s : State) : Host.Outcome State Fault Refusal :=
  .next (s.inRun fun s => holdDeadline s ident)

/-! Reissue. -/

/-- A record is reissued: within REISSUE_WINDOW, with a CLAMP field above the applied ceiling (R43). -/
def qualifies (s : State) (r : ReissueRec) : Bool :=
  decide (s.now - r.time < s.active.reissueWindow) && clampAbove r.clamps s.csu.applied.toNat r.frame.data

/-- The recorded frame at the applied ceiling (R43). -/
def reissued (s : State) (r : ReissueRec) : Frame :=
  { r.frame with data := reclamp r.clamps s.csu.applied.toNat r.frame.data }

/-- One reissue record at a ceiling fall (R43). -/
def reissueOne (s : State) (k : Fin 16) : State :=
  match s.fre.reissue.get k with
  | none => s
  | some r =>
    if qualifies s r then
      (queueForwarded s r.target { frame := reissued s r, arrival := r.arrival, entry := some r.entry, mark := true }).setReissue
        k (some { r with frame := reissued s r })
    else s

/-- FRE takes a ceiling fall: the records in rising template order (R43). -/
def takeFall (s : State) : State := (List.finRange 16).foldl reissueOne s

/-- A delivered ceiling fall at FRE (R43). -/
def freFallTaking (s : State) : State := takeFall (s.taken .ceilingFall)

/-- CEILING_FALL (R43). -/
def execCeilingFall (s : State) : Host.Outcome State Fault Refusal := .next (s.inRun freFallTaking)

/-! Frames. -/

/-- UNMATCHED_ACTION: the frame is queued unchanged on the other port, without entry index and mark, or discarded
(R4, R21). -/
def unmatched (s : State) (p : Port) (f : Frame) : State :=
  if s.active.unmatchedPass then
    queueForwarded s p.other { frame := f, arrival := p, entry := none, mark := false }
  else s

/-- A frame of a GATE entry (R25). -/
def gateFrame (s : State) (f : Frame) (p : Port) (e : Fin 96) (t : Fin 24) : State :=
  if s.term t = .tt then forwardVia s (frtOpen (s.entry e)) f p e else closedTreatment s f p e t (s.term t)

/-- A frame of a HOLD entry (R27). -/
def holdFrame (s : State) (f : Frame) (p : Port) (e : Fin 96) (t : Fin 24) : State :=
  if s.term t = .tt then
    forwardVia (s.setHold (s.fre.hold.filter fun x => !x.same f.ident e)) (frtOpen (s.entry e)) f p e
  else offerHold s f p e t

/-- Step 3 of R22: the action of entry e (R24, R25, R27). The active tables give every GATE and HOLD entry a term (R33). -/
def frameAction (s : State) (f : Frame) (p : Port) (e : Fin 96) : State :=
  match frtAction (s.entry e), frtTerm (s.entry e) with
  | .pass, _ => forwardVia s (frtOpen (s.entry e)) f p e
  | .drop, _ => s
  | .gate, some t => gateFrame s f p e t
  | .hold, some t => holdFrame s f p e t
  | _, none => s

/-! Commit. -/

/-- The purge at a commit: every held frame raised HOLD_DISCARD PURGED in arrival order, each taken by EXC (R40, R192,
R193, log 12). -/
def purge (s : State) : State :=
  s.fre.hold.foldl (fun s h => excTake s (gateRaise s .holdDiscard h.frame h.arrival h.entry h.term (some .purged)))
    (s.setHold [])

/-- FRE takes a commit: the Hold Buffer is purged, then the reissue records are emptied (R40, R44, R192). -/
def freCommit (s : State) : State :=
  (purge s).setFre { (purge s).fre with reissue := Vector.replicate 16 none }

end Sys2Proof.Machine
end

