-- ==== Sys2Proof/Machine/Drv.lean ====
section
/-! DEFINITION. DRV: the drive channels (R92 to R118). -/

namespace Sys2Proof.Machine

/-! State changes. -/

/-- The output line of a channel is on in these states (R95). -/
def lineOn (st : DriveState) : Bool := st == .shifting || st == .verifying || st == .engaged

/-- Sets a channel's output line. -/
def State.setLine (s : State) (c : Channel) (b : Bool) : State :=
  s.setOuts (match c with
    | .main => { s.outs with main := b }
    | .roll => { s.outs with roll := b }
    | .aux => { s.outs with aux := b })

/-- The deliveries of a state change to ILK, CSU and TNK (R95). -/
def driveDeliveries (c : Channel) (st : DriveState) : List Instr :=
  [.ilkDriveStateChange c, .csuInputDelivery (.drive c st), .tnkDriveStateChange c st]

/-- A channel takes a new context: its line follows its state, and a state change is delivered (R95). -/
def enter (s : State) (c : Channel) (r : ChannelRec) : State :=
  let s1 := (s.setChan c r).setLine c (lineOn r.state)
  if r.state = (s.chan c).state then s1 else s1.post (driveDeliveries c r.state)

/-- A raise that carries a channel (R162). -/
def channelRaise (s : State) (cls : ExcClass) (c : Channel) : Raise :=
  { cls := cls, mode := s.ilk.mode, channel := some c }

/-- Entry to ENGAGED (R92, R102, R105). -/
def enterEngaged (s : State) (c : Channel) : State :=
  enter s c { s.chan c with state := .engaged, timer := none, outcome := some .engaged }

/-- Entry to VERIFYING: its timer starts (R96, R102). -/
def enterVerifying (s : State) (c : Channel) : State :=
  enter s c { s.chan c with state := .verifying, timer := some (.verify, s.now + (s.active.drive c).verify) }

/-- Entry to RELEASING with a cause: the release timer starts (R92, R96). -/
def enterReleasing (s : State) (c : Channel) (why : AbortCause) : State :=
  enter s c { s.chan c with
    state := .releasing, timer := some (.release, s.now + (s.active.drive c).release), outcome := some (.aborted why) }

/-- Entry to FAULTED with a cause and its exception (R106, R107, R109). -/
def enterFaulted (s : State) (c : Channel) (why : FailCause) (cls : ExcClass) : State :=
  (enter s c { s.chan c with state := .faulted, timer := none, outcome := some (.failed why) }).raise
    (channelRaise s cls c)

/-- Entry to DISENGAGED: the origin becomes absent, the last outcome is kept (R92). -/
def enterDisengaged (s : State) (c : Channel) : State :=
  enter s c { s.chan c with state := .disengaged, timer := none, origin := none }

/-! Checks. -/

/-- The confirm check; a channel without confirm switch has none (R103). -/
def confirmHolds (s : State) (d : DriveCfg) : Bool :=
  match d.confirm with
  | none => true
  | some i => (s.slot i).fresh == .fresh && (s.slot i).value.toNat == d.level

/-- The confirm switch reads disengaged (R103). -/
def readsDisengaged (s : State) (i : Fin 32) (level : Nat) : Bool :=
  (s.slot i).fresh == .fresh && (s.slot i).value.toNat != level

/-- The ratio window of R104, products taken exactly. -/
def ratioIn (low high i o : Nat) : Bool := decide (0 < i) && decide (low * i ≤ o * 256) && decide (o * 256 ≤ high * i)

/-- The ratio check; a channel without speed slots has none (R104). -/
def ratioHolds (s : State) (d : DriveCfg) : Bool :=
  match d.speeds with
  | none => true
  | some (a, b) =>
    (s.slot a).fresh == .fresh && (s.slot b).fresh == .fresh
      && ratioIn d.low d.high (s.slot a).value.toNat (s.slot b).value.toNat

/-- Every configured check holds (R102, R105). -/
def checksHold (s : State) (c : Channel) : Bool :=
  confirmHolds s (s.active.drive c) && ratioHolds s (s.active.drive c)

/-! Requests. -/

/-- The result that DRV gives a request (R98, R108, R114). -/
inductive DriveResult where
  | ok
  | busy
  | refused (r : RefuseReason)
  deriving DecidableEq, Repr

/-- The reason of an ENGAGE_REFUSED raise (R162). -/
def refuseReason : RefuseReason → Reason
  | .notPermitted => .notPermitted
  | .exclusive => .exclusive
  | .conflict => .conflict
  | .busy => .busy

/-- The ENGAGE_REFUSED raise: channel, reason, and the permit term for NOT_PERMITTED (R101). -/
def refuseRaise (s : State) (c : Channel) (why : RefuseReason) : Raise :=
  { channelRaise s .engageRefused c with
    term := if why = .notPermitted then (s.active.drive c).permit else none
    reason := some (refuseReason why) }

/-- A refused engage request: in FAULTED the last outcome stays (R101). -/
def refuse (s : State) (c : Channel) (why : RefuseReason) : State :=
  let r := s.chan c
  (if r.state = .faulted then s else s.setChan c { r with outcome := some (.refused why) }).raise (refuseRaise s c why)

/-- Check 2 of R99: the partner of MAIN or ROLL is not DISENGAGED. -/
def partnerActive (s : State) : Channel → Bool
  | .main => s.drv.roll.state != .disengaged
  | .roll => s.drv.main.state != .disengaged
  | .aux => false

/-- Check 3 of R99: the permit term is present and TRUE. -/
def permitted (s : State) (c : Channel) : Bool :=
  match (s.active.drive c).permit with
  | none => false
  | some t => s.ilk.terms.get t == .tt

/-- The first check of R99 that refuses an engage request in DISENGAGED. -/
def engageRefusal (s : State) (c : Channel) : Option RefuseReason :=
  if s.ilk.mode = .conflict then some .conflict
  else if partnerActive s c then some .exclusive
  else if !permitted s c then some .notPermitted
  else none

/-- Acceptance: SHIFTING, the settle timer, the origin (R99). -/
def accept (s : State) (c : Channel) (o : Origin) : State :=
  enter s c { s.chan c with
    state := .shifting, timer := some (.settle, s.now + (s.active.drive c).settle), origin := some o }

/-- An engage request by the channel's state (R98, R99). -/
def engage (s : State) (c : Channel) (o : Origin) : State × DriveResult :=
  match (s.chan c).state with
  | .disengaged =>
    (match engageRefusal s c with
      | some why => (refuse s c why, .refused why)
      | none => (accept s c o, .ok))
  | .shifting | .verifying | .engaged => (s, .ok)
  | .releasing | .faulted => (refuse s c .busy, .busy)

/-- A disengage request by the channel's state (R108). -/
def disengage (s : State) (c : Channel) : State × DriveResult :=
  match (s.chan c).state with
  | .shifting | .verifying | .engaged => (enterReleasing s c .disengage, .ok)
  | .disengaged | .releasing | .faulted => (s, .ok)

/-- A CLEAR on a FAULTED channel passes: no confirm switch, or it reads disengaged (R114). -/
def clearPasses (s : State) (c : Channel) : Bool :=
  match (s.active.drive c).confirm with
  | none => true
  | some i => readsDisengaged s i (s.active.drive c).level

/-- A CLEAR by the channel's state (R114). -/
def clearDrive (s : State) (c : Channel) : State × DriveResult :=
  match (s.chan c).state with
  | .faulted => if clearPasses s c then (enterDisengaged s c, .ok) else (s, .busy)
  | .disengaged => (s, .ok)
  | .shifting | .verifying | .engaged | .releasing => (s, .busy)

/-! Slot events. -/

/-- The request edge of a slot event: true for 0 to nonzero, false for nonzero to 0 (R97, R136, R138). -/
def requestEdge : SlotEvent → Option Bool
  | .written _ v before _ _ => if before = 0 ∧ v ≠ 0 then some true else if before ≠ 0 ∧ v = 0 then some false else none
  | .stale _ _ => none

/-- The request that a slot event makes of a channel (R97). -/
def channelRequest (e : SlotEvent) (s : State) (c : Channel) : State :=
  if s.active.bound (reqRole c) e.slot then
    (match requestEdge e with
      | some true => (engage s c .signal).1
      | some false => (disengage s c).1
      | none => s)
  else s

/-- The checks that a slot event reaches: VERIFYING examines on a write of a check slot (R105), ENGAGED watches its confirm
switch (R107). That the examination reads the slots as they stand at this taking, be they written again since the event, is the
model's choice (log 39). -/
def channelCheck (e : SlotEvent) (s : State) (c : Channel) : State :=
  let d := s.active.drive c
  match e, (s.chan c).state with
  | .written i _ _ _ _, .verifying =>
    if (d.isConfirm i || d.isSpeed i) && checksHold s c then enterEngaged s c else s
  | .written i v _ _ _, .engaged =>
    if d.isConfirm i && v.toNat != d.level then enterFaulted s c .confirmLost .engageLost else s
  | _, _ => s

/-- One channel takes a slot event: the request, then the checks (R97). -/
def channelSlot (e : SlotEvent) (s : State) (c : Channel) : State := channelCheck e (channelRequest e s c) c

/-- A delivered slot event at DRV: the channels in the order MAIN, ROLL, AUX (R97). -/
def drvSlotTaking (e : SlotEvent) (s : State) : State := Channel.all.foldl (channelSlot e) (s.taken (.drvSlotEvent e))

/-- DRV_SLOT_EVENT (R97). -/
def execDrvSlotEvent (e : SlotEvent) (s : State) : Host.Outcome State Fault Refusal := .next (s.inRun (drvSlotTaking e))

/-! Permit, supervision, run-dry. -/

/-- The PERMIT_LOST raise (R110). -/
def permitLost (s : State) (c : Channel) (t : Fin 24) : Raise := { channelRaise s .permitLost c with term := some t }

/-- A fall of term t at one channel (R110). -/
def channelFall (t : Fin 24) (s : State) (c : Channel) : State :=
  let d := s.active.drive c
  if d.permit = some t then
    match (s.chan c).state with
    | .shifting | .verifying => (enterReleasing s c .permitLost).raise (permitLost s c t)
    | .engaged =>
      if d.releaseOnLoss then (enterReleasing s c .permitLost).raise (permitLost s c t)
      else s.raise (permitLost s c t)
    | .disengaged | .releasing | .faulted => s
  else s

/-- A delivered fall of a term at DRV (R110). -/
def drvFallTaking (t : Fin 24) (s : State) : State := Channel.all.foldl (channelFall t) (s.taken (.permitTermFall t))

/-- PERMIT_TERM_FALL (R110). -/
def execPermitTermFall (t : Fin 24) (s : State) : Host.Outcome State Fault Refusal := .next (s.inRun (drvFallTaking t))

/-- A delivered rise of a term at DRV: every channel stays as it is (R111). -/
def drvRiseTaking (t : Fin 24) (s : State) : State := s.taken (.permitTermRise t)

/-- PERMIT_TERM_RISE (R111). -/
def execPermitTermRise (t : Fin 24) (s : State) : Host.Outcome State Fault Refusal := .next (s.inRun (drvRiseTaking t))

/-- A supervision lapse at one channel (R112). -/
def channelLapse (s : State) (c : Channel) : State :=
  match (s.chan c).state with
  | .shifting | .verifying => enterReleasing s c .supervision
  | .disengaged | .engaged | .releasing | .faulted => s

/-- A delivered supervision lapse at DRV (R112). -/
def drvLapseTaking (s : State) : State := Channel.all.foldl channelLapse (s.taken .supervisionLapse)

/-- SUPERVISION_LAPSE (R112). -/
def execSupervisionLapse (s : State) : Host.Outcome State Fault Refusal := .next (s.inRun drvLapseTaking)

/-- A run-dry request (R113). -/
def runDry (s : State) (c : Channel) : State :=
  if (s.chan c).state = .engaged then enterReleasing s c .dryRun else s

/-- A delivered run-dry request at DRV (R113). -/
def drvDryTaking (c : Channel) (s : State) : State := runDry (s.taken (.runDryRequest c)) c

/-- RUN_DRY_REQUEST (R113). -/
def execRunDryRequest (c : Channel) (s : State) : Host.Outcome State Fault Refusal := .next (s.inRun (drvDryTaking c))

/-! Timers. -/

/-- The settle timer of a SHIFTING channel expires (R102). -/
def settleEnd (s : State) (c : Channel) : State :=
  match (s.chan c).state, (s.chan c).timer with
  | .shifting, some (.settle, t) =>
    if checksHold s c then enterEngaged (s.clock t) c else enterVerifying (s.clock t) c
  | _, _ => s

/-- SETTLE_EXPIRY (R102). -/
def execSettleExpiry (c : Channel) (s : State) : Host.Outcome State Fault Refusal :=
  .next (s.inRun fun s => settleEnd s c)

/-- The verify timer of a VERIFYING channel expires (R106). -/
def verifyEnd (s : State) (c : Channel) : State :=
  match (s.chan c).state, (s.chan c).timer with
  | .verifying, some (.verify, t) => enterFaulted (s.clock t) c .verifyTimeout .engageFailed
  | _, _ => s

/-- VERIFY_EXPIRY (R106). -/
def execVerifyExpiry (c : Channel) (s : State) : Host.Outcome State Fault Refusal :=
  .next (s.inRun fun s => verifyEnd s c)

/-- The release timer of a RELEASING channel expires: no confirm switch, or one that reads disengaged, gives DISENGAGED, any
other FAULTED (R109). -/
def releaseEnd (s : State) (c : Channel) : State :=
  match (s.chan c).state, (s.chan c).timer with
  | .releasing, some (.release, t) =>
    if clearPasses s c then enterDisengaged (s.clock t) c
    else enterFaulted (s.clock t) c .releaseCheck .releaseFailed
  | _, _ => s

/-- RELEASE_EXPIRY (R109). -/
def execReleaseExpiry (c : Channel) (s : State) : Host.Outcome State Fault Refusal :=
  .next (s.inRun fun s => releaseEnd s c)

end Sys2Proof.Machine
end

