-- ==== Sys2Proof/Machine/Tnk.lean ====
section
/-! DEFINITION. TNK: tank records and their senders (R119 to R131), bands (R132, R133), the supply (R134, R135), the valves
(R136 to R140), run-dry (R141, R142), one taking (R143), and what TNK takes of a commit (R145). -/

namespace Sys2Proof.Machine

/-! Tank records. -/

/-- The median of three (R122). -/
def median (a b c : Nat) : Nat := max (min a b) (min (max a b) c)

/-- The filtered level: the median of 3 samples, the newest of 1 or 2, absent for none (R119). -/
def filtered : List Raw → Option Raw
  | [a, b, c] => some (BitVec.ofNat 16 (median a.toNat b.toNat c.toNat))
  | w => w.getLast?

/-- The estimate: base less drawn, or 0 (R119). -/
def TankRec.estimate (r : TankRec) : Nat := r.base.toNat - r.drawn

/-- The window with a sample appended, the oldest of three dropped (R122). -/
def pushSample (w : List Raw) (v : Raw) : List Raw := (if 3 ≤ w.length then w.tail else w) ++ [v]

/-- A resync to a filtered level (R119). -/
def TankRec.resync (r : TankRec) (l : Raw) : TankRec := { r with base := l, drawn := 0 }

/-- The difference of filtered level and estimate lies within the limit (R123). -/
def TankRec.agrees (r : TankRec) (limit : Nat) (l : Raw) : Bool :=
  decide (l.toNat ≤ r.estimate + limit) && decide (r.estimate ≤ l.toNat + limit)

/-- A GOOD or SUSPECT sender takes a compared sample (R124, R125). -/
def judgeTrusted (r : TankRec) (agree : Bool) (l : Raw) : TankRec :=
  if agree then { r.resync l with sender := .good, strikes := 0 }
  else if r.sender = .suspect ∧ 2 ≤ r.strikes then { r with sender := .failed, strikes := 3, agree := 0 }
  else { r with sender := .suspect, strikes := if r.sender = .suspect then r.strikes + 1 else 1 }

/-- A FAILED sender's agree count becomes n: at 3 it is GOOD again, with a resync (R126). -/
def recoverAt (r : TankRec) (n : Nat) (l : Raw) : TankRec :=
  if 3 ≤ n then { r.resync l with sender := .good, strikes := 0, agree := 0 } else { r with agree := n }

/-- A FAILED sender takes a sample (R126). Where samples are not compared (R127), a flow input's agree count stays. -/
def judgeFailed (c : TankCfg) (filling : Bool) (r : TankRec) (l : Raw) : TankRec :=
  if c.flow = none then recoverAt r (r.agree + 1) l
  else if filling then r
  else recoverAt r (if r.agrees c.limit l then r.agree + 1 else 0) l

/-- A sample judged: the first of a started record and the samples of a fill resync, the others are compared (R123 to R127).
r holds the window with the sample, l is its filtered level. -/
def judge (c : TankCfg) (filling first : Bool) (r : TankRec) (l : Raw) : TankRec :=
  if r.sender = .failed then judgeFailed c filling r l
  else if first || filling then r.resync l
  else judgeTrusted r (r.agrees c.limit l) l

/-- A level sample (R122). -/
def sample (c : TankCfg) (filling : Bool) (r : TankRec) (v : Raw) : TankRec :=
  let first := decide (r.sender = .good) && r.window.isEmpty
  let r1 := { r with window := pushSample r.window v }
  match filtered r1.window with
  | none => r1
  | some l => judge c filling first r1 l

/-- The LEVEL slot of a tank in service goes stale (R128). -/
def levelStale (r : TankRec) : TankRec := { r with sender := .failed, agree := 0, window := [] }

/-- A volume unit of a tank in service (R129). -/
def drawUnit (c : TankCfg) (r : TankRec) : TankRec := { r with drawn := if r.drawn < c.capacity then r.drawn + 1 else r.drawn }

/-- The level source (R130). -/
def sourceOf (inService : Bool) (c : TankCfg) (r : TankRec) : LevelSource :=
  if inService then
    (if r.sender = .failed then (if c.flow = none then .none else .estimate) else .sender)
  else .none

/-- The level in use (R130). -/
def levelOf (src : LevelSource) (r : TankRec) : Option Raw :=
  match src with
  | .sender => filtered r.window
  | .estimate => some (BitVec.ofNat 16 r.estimate)
  | .none => none

/-- The band that a level gives plainly (R132). -/
def plainBand (c : TankCfg) (l : Nat) : Band :=
  if l < c.lowAt then .empty else if l < c.normalAt then .low else if l < c.fullAt then .normal else .full

/-- The lower threshold of a band; EMPTY and UNKNOWN have none (R132). -/
def lowerOf (c : TankCfg) : Band → Nat
  | .low => c.lowAt
  | .normal => c.normalAt
  | .full => c.fullAt
  | .empty | .unknown => 0

/-- The band after a rise: the highest higher band whose lower threshold plus H the level has reached, else the band as it
is (R132). -/
def risenBand (c : TankCfg) (l : Nat) (b : Band) : Band :=
  if c.fullAt + c.hyst ≤ l then .full
  else if (b = .empty ∨ b = .low) ∧ c.normalAt + c.hyst ≤ l then .normal
  else if b = .empty ∧ c.lowAt + c.hyst ≤ l then .low
  else b

/-- The band taken anew from a level in use (R132). -/
def bandOf (c : TankCfg) (b : Band) : Option Raw → Band
  | none => .unknown
  | some l =>
    if b = .unknown then plainBand c l.toNat
    else if l.toNat < lowerOf c b then plainBand c l.toNat
    else risenBand c l.toNat b

/-- The end of a tank's taking: source, level and band; the band is taken anew where level or source changed (R130,
R132). -/
def settleTank (t : Tables) (k : Tank) (r : TankRec) : TankRec :=
  let c := t.tank k
  let src := sourceOf (t.inService k) c r
  let l := levelOf src r
  { r with source := src, level := l, band := if src = r.source ∧ l = r.level then r.band else bandOf c r.band l }

/-- A tank takes a slot event, where the event is about its LEVEL slot and it is in service (R122, R128). -/
def tankSlot (t : Tables) (e : SlotEvent) (n : TnkRec) (k : Tank) : TnkRec :=
  if t.inService k && t.bound (tankRole k) e.slot then
    (match e with
      | .written _ v _ _ _ =>
        n.setTank k (settleTank t k (sample (t.tank k) (decide (k = .water) && n.fillOpen) (n.tank k) v))
      | .stale _ _ => n.setTank k (settleTank t k (levelStale (n.tank k))))
  else n

/-! Supply and valves. -/

/-- The supply after a written intake pressure (R134, R145). -/
def supplyAt (t : Tables) (before : Supply) (v : Raw) : Supply :=
  if t.supplyRise ≤ v.toNat then .hydrant else if v.toNat < t.supplyFall then .tank else before

/-- The supply after a slot event (R134). -/
def supplyAfter (t : Tables) (e : SlotEvent) (before : Supply) : Supply :=
  if t.bound .intakePressure e.slot then
    (match e, before with
      | .written _ v _ _ _, .tank => if t.supplyRise ≤ v.toNat then .hydrant else .tank
      | .written _ v _ _ _, .hydrant => if v.toNat < t.supplyFall then .tank else .hydrant
      | .stale _ _, _ => .tank)
  else before

/-- The conditions under which the fill valve may be open: supply HYDRANT, WATER band EMPTY, LOW or NORMAL, WATER source
SENDER (R138 to R140). -/
def fillAllowed (n : TnkRec) : Bool :=
  n.supply == .hydrant && (n.water.band == .empty || n.water.band == .low || n.water.band == .normal)
    && n.water.source == .sender

/-- A fill open request; true where it is refused. It is judged against the state of the taking, so a valve commanded OPEN
that the taking closes refuses it as well (R138, R139, R143, log 30). -/
def fillRequest (n : TnkRec) : TnkRec × Bool :=
  if fillAllowed n then ({ n with fillOpen := true }, false) else (n, true)

/-- The tank valve request of a slot event (R136). -/
def tankValveEvent (t : Tables) (e : SlotEvent) (n : TnkRec) : TnkRec :=
  if t.bound .reqTankValve e.slot then
    (match requestEdge e with
      | some b => { n with tankOpen := b }
      | none => n)
  else n

/-- The fill valve request of a slot event; true where it is refused (R138). -/
def fillEvent (t : Tables) (e : SlotEvent) (n : TnkRec) : TnkRec × Bool :=
  if t.bound .reqFill e.slot then
    (match requestEdge e with
      | some true => fillRequest n
      | some false => ({ n with fillOpen := false }, false)
      | none => (n, false))
  else (n, false)

/-- The tank valve override (R137). -/
def overrideOf (n : TnkRec) : Bool := n.supply == .tank && (lineOn n.heldMain || lineOn n.heldRoll)

/-- The run-dry condition D (R141). -/
def dryOf (n : TnkRec) : Bool :=
  n.supply == .tank && n.water.band == .empty && (n.heldMain == .engaged || n.heldRoll == .engaged)

/-- The run-dry timer after D was taken anew (R141). -/
def dryTimer (before after : Bool) (timer : Option Nat) (expiry : Nat) : Option Nat :=
  if after then (if before then timer else some expiry) else none

/-! One taking. -/

/-- Step 4: automatic closing of the fill valve (R139). -/
def autoClose (n : TnkRec) : TnkRec := { n with fillOpen := n.fillOpen && fillAllowed n }

/-- Steps 4 to 6 of a taking (R139, R137, R141, R143). -/
def endTaking (t : Tables) (now : Nat) (n : TnkRec) : TnkRec :=
  let n1 := autoClose n
  { n1 with
    override := overrideOf n1
    dry := dryOf n1
    runDry := dryTimer n.dry (dryOf n1) n.runDry (now + t.dryTime) }

/-- A raise that carries a tank (R162). -/
def tankRaise (s : State) (cls : ExcClass) (k : Tank) : Raise := { cls := cls, mode := s.ilk.mode, tank := some k }

/-- SENDER_FAILED for each sender that became FAILED in a taking (R131). Where one slot is bound to the LEVEL roles of several
tanks, their order WATER, FOAM_A, FOAM_B is the model's choice (log 29). -/
def failedRaises (s : State) (before after : TnkRec) : List Instr :=
  (Tank.all.filter fun k => (before.tank k).sender != .failed && (after.tank k).sender == .failed).map
    fun k => .exceptionRaise (tankRaise s .senderFailed k)

/-- The deliveries of one tank's band (R133). -/
def bandDelivery (before after : TnkRec) (k : Tank) : List Instr :=
  if (before.tank k).band = (after.tank k).band then []
  else if k = .water then [.ilkBandChange k, .csuInputDelivery (.waterBand after.water.band)]
  else [.ilkBandChange k]

/-- The deliveries of the supply (R135). -/
def supplyDelivery (before after : TnkRec) : List Instr :=
  if before.supply = after.supply then [] else [.ilkSupplyChange, .csuInputDelivery (.supply after.supply)]

/-- The deliveries of a taking: bands, then supply (R143). -/
def tnkDeliveries (before after : TnkRec) : List Instr :=
  Tank.all.flatMap (bandDelivery before after) ++ supplyDelivery before after

/-- Replaces TNK's state; the two lines follow it (R137, R140). -/
def State.withTnk (s : State) (n : TnkRec) : State :=
  (s.setTnk n).setOuts { s.outs with tank := n.tankOpen || n.override, fill := n.fillOpen }

/-- One taking in TNK: n is the state after steps 1 to 3, refused tells a refused fill request; then steps 4 to 6, the
raises and the deliveries (R143). -/
def tnkTake (s : State) (n : TnkRec) (refused : Bool) : State :=
  let n1 := endTaking s.active s.now n
  (s.withTnk n1).post
    (failedRaises s s.tnk n1 ++ (if refused then [.exceptionRaise (tankRaise s .fillRefused .water)] else [])
      ++ tnkDeliveries s.tnk n1)

/-- Steps 1 to 3 of a slot event (R143). -/
def tnkSlot (t : Tables) (n : TnkRec) (e : SlotEvent) : TnkRec × Bool :=
  let n1 := Tank.all.foldl (tankSlot t e) n
  fillEvent t e (tankValveEvent t e { n1 with supply := supplyAfter t e n1.supply })

/-- TNK takes a slot event (R143). -/
def tnkTakeSlot (s : State) (e : SlotEvent) : State := tnkTake s (tnkSlot s.active s.tnk e).1 (tnkSlot s.active s.tnk e).2

/-- A delivered slot event at TNK (R143). -/
def tnkSlotTaking (e : SlotEvent) (s : State) : State := tnkTakeSlot (s.taken (.tnkSlotEvent e)) e

/-- TNK_SLOT_EVENT (R143). -/
def execTnkSlotEvent (e : SlotEvent) (s : State) : Host.Outcome State Fault Refusal := .next (s.inRun (tnkSlotTaking e))

/-- A volume unit: a tank that is not in service takes none (R129). -/
def tnkUnit (t : Tables) (n : TnkRec) (k : Tank) : TnkRec :=
  if t.inService k then n.setTank k (settleTank t k (drawUnit (t.tank k) (n.tank k))) else n

/-- A delivered volume unit at TNK (R129). -/
def tnkUnitTaking (k : Tank) (s0 : State) : State :=
  let s := s0.taken (.volumeUnit k)
  tnkTake s (tnkUnit s.active s.tnk k) false

/-- VOLUME_UNIT (R129). -/
def execVolumeUnit (k : Tank) (s : State) : Host.Outcome State Fault Refusal := .next (s.inRun (tnkUnitTaking k))

/-- TNK holds the delivered state of MAIN and of ROLL (R137, log 14). -/
def heldAfter (n : TnkRec) (c : Channel) (st : DriveState) : TnkRec :=
  match c with
  | .main => { n with heldMain := st }
  | .roll => { n with heldRoll := st }
  | .aux => n

/-- A delivered state change of a channel at TNK (R137, R141). -/
def tnkDriveTaking (c : Channel) (st : DriveState) (s0 : State) : State :=
  let s := s0.taken (.tnkDriveStateChange c st)
  tnkTake s (heldAfter s.tnk c st) false

/-- TNK_DRIVE_STATE_CHANGE (R137, R141). -/
def execTnkDriveStateChange (c : Channel) (st : DriveState) (s : State) : Host.Outcome State Fault Refusal :=
  .next (s.inRun (tnkDriveTaking c st))

/-- The run-dry requests: to each of MAIN and ROLL that TNK holds ENGAGED (R142). -/
def dryRequests (n : TnkRec) : List Instr :=
  (if n.heldMain = .engaged then [.runDryRequest .main] else []) ++
    (if n.heldRoll = .engaged then [.runDryRequest .roll] else [])

/-- The run-dry timer expires (R142). -/
def dryExpiry (s : State) : State :=
  match s.tnk.runDry with
  | none => s
  | some t =>
    let s1 := s.clock t
    (s1.setTnk { s1.tnk with runDry := none }).post
      (.exceptionRaise (tankRaise s1 .dryRun .water) :: dryRequests s1.tnk)

/-- RUN_DRY_EXPIRY (R142). -/
def execRunDryExpiry (s : State) : Host.Outcome State Fault Refusal := .next (s.inRun dryExpiry)

/-! VALVE_COMMAND, commit, beginning of RUN. -/

/-- The actions of VALVE_COMMAND (R144). -/
inductive ValveAction where
  | tankOpen | tankClose | fillOpen | fillClose
  deriving DecidableEq, Repr

/-- The request of a VALVE_COMMAND; true where it is refused (R136, R138, R144). -/
def valveRequest (n : TnkRec) : ValveAction → TnkRec × Bool
  | .tankOpen => ({ n with tankOpen := true }, false)
  | .tankClose => ({ n with tankOpen := false }, false)
  | .fillOpen => fillRequest n
  | .fillClose => ({ n with fillOpen := false }, false)

/-- TNK takes a VALVE_COMMAND (R144). -/
def valveTake (s : State) (a : ValveAction) : State := tnkTake s (valveRequest s.tnk a).1 (valveRequest s.tnk a).2

/-- A tank record started again (R145, R146). -/
def startedTank (inService : Bool) : TankRec := { source := if inService then .sender else .none }

/-- A tank that is kept across a commit: drawn held at the new capacity, source and level taken anew, band set plainly
(R145). -/
def keptTank (t : Tables) (k : Tank) (r : TankRec) : TankRec :=
  let c := t.tank k
  let r1 := if t.inService k then { r with drawn := min r.drawn c.capacity } else r
  let src := sourceOf (t.inService k) c r1
  { r1 with source := src, level := levelOf src r1, band := bandOf c .unknown (levelOf src r1) }

/-- One tank at a commit (R145). -/
def tankCommit (before t : Tables) (n : TnkRec) (k : Tank) : TnkRec :=
  if t.inService k ≠ before.inService k ∨ t.role (tankRole k) ≠ before.role (tankRole k) then
    n.setTank k (startedTank (t.inService k))
  else n.setTank k (keptTank t k (n.tank k))

/-- The supply at a commit (R145). -/
def supplyCommit (s : State) : Supply :=
  let r := s.roleSlot .intakePressure
  if r.fresh = .fresh then supplyAt s.active s.tnk.supply r.value else .tank

/-- TNK takes a commit as one taking (R145). -/
def tnkCommit (before : Tables) (s : State) : State :=
  tnkTake s { Tank.all.foldl (tankCommit before s.active) s.tnk with supply := supplyCommit s } false

/-- The tank records that the loaded tables give at start-up (R146). -/
def tnkBegin (s : State) : State :=
  s.setTnk { s.tnk with
    water := startedTank (s.active.inService .water)
    foamA := startedTank (s.active.inService .foamA)
    foamB := startedTank (s.active.inService .foamB) }

end Sys2Proof.Machine
end

