-- ==== Sys2Proof/Machine/Takings.lean ====
section
/-! DEFINITION. The takings of delivered events as operations, for the deliveries that are taken while a frame or a COMMIT is
handled: which block takes a delivery, and what it does then. -/

namespace Sys2Proof.Machine

/-- The block that takes a delivery; none for a command that no block delivers. -/
def receiver : Instr → Option Block
  | .ilkSlotEvent _ | .ilkDriveStateChange _ | .ilkBandChange _ | .ilkSupplyChange => some .ilk
  | .drvSlotEvent _ | .permitTermFall _ | .permitTermRise _ | .supervisionLapse | .runDryRequest _ => some .drv
  | .tnkSlotEvent _ | .volumeUnit _ | .tnkDriveStateChange _ _ => some .tnk
  | .csuInputDelivery _ | .heartbeat => some .csu
  | .termRiseAtFre _ | .termFallAtFre _ | .ceilingFall => some .fre
  | .exceptionRaise _ => some .exc
  | _ => none

/-- A delivery is taken in RUN: what its command does. -/
def takeEvent (d : Instr) (s : State) : State :=
  match d with
  | .ilkSlotEvent e => ilkSlotTaking e s
  | .ilkDriveStateChange c => ilkDriveTaking c s
  | .ilkBandChange k => ilkBandTaking k s
  | .ilkSupplyChange => ilkSupplyTaking s
  | .drvSlotEvent e => drvSlotTaking e s
  | .permitTermFall t => drvFallTaking t s
  | .permitTermRise t => drvRiseTaking t s
  | .supervisionLapse => drvLapseTaking s
  | .runDryRequest c => drvDryTaking c s
  | .tnkSlotEvent e => tnkSlotTaking e s
  | .volumeUnit k => tnkUnitTaking k s
  | .tnkDriveStateChange c st => tnkDriveTaking c st s
  | .csuInputDelivery i => csuInputTaking i s
  | .heartbeat => csuBeatTaking s
  | .termRiseAtFre t => freRiseTaking t s
  | .termFallAtFre t => freTermFallTaking t s
  | .ceilingFall => freFallTaking s
  | .exceptionRaise r => excRaiseTaking r s
  | _ => s

/-- A block takes the oldest delivery that waits for it, where there is one. -/
def takeOldest (s : State) (b : Block) : State :=
  match s.outbox.find? fun d => receiver d == some b with
  | none => s
  | some d => takeEvent d s

/-! The takings between the steps of a COMMIT (R191, R192, log 12). -/

/-- The changes that R192 has their receivers take before or after the steps that follow: of a band or the supply (step 5), of
the mode (step 6). -/
def commitChange : Instr → Bool
  | .ilkBandChange _ | .ilkSupplyChange => true
  | .csuInputDelivery (.waterBand _) | .csuInputDelivery (.supply _) | .csuInputDelivery (.mode _) => true
  | _ => false

/-- The blocks that work wholly under the new tables after the k-th of the steps of EXC, FRE, SIG, TNK, ILK and CSU, k counted
from 0 (R191). Up to the step of ILK that is EXC alone: the held frames are FRE's to purge (R20, R40), TNK takes slot events after
its own step and leaves the bands to ILK's step as its own step set them (R145, R192), and DRV reads the permit results of ILK.
CSU follows with its step, the last. -/
def readyAfter (k : Nat) : List Block :=
  if k < 4 then [.exc] else if k = 4 then [.exc, .fre, .drv, .tnk, .ilk] else [.exc, .fre, .drv, .tnk, .ilk, .csu]

/-- A block's taking between two steps of a COMMIT: a block that works under the new tables takes its oldest delivery; any other
takes the oldest of the changes that R192 lets come before its own step, delivered since the commit was handed out, old being
what waited then. -/
def takeBetween (ready : List Block) (old : List Instr) (s : State) (b : Block) : State :=
  if b ∈ ready then takeOldest s b
  else
    match (old.foldl List.erase s.outbox).find? fun d => receiver d == some b && commitChange d with
    | none => s
    | some d => takeEvent d s

/-- The takings after the k-th step of a COMMIT: by the blocks of the k-th list of the order, one after the other. -/
def commitTurn (order : List (List Block)) (old : List Instr) (k : Nat) (s : State) : State :=
  (order.getD k []).foldl (takeBetween (readyAfter k) old) s

end Sys2Proof.Machine
end

