-- ==== Sys2Proof/Machine/Matched.lean ====
section
/-! DEFINITION. FRE takes a frame (R19 to R22): the extractions of a matched frame with the takings of what they deliver, its
heartbeat, its action. -/

namespace Sys2Proof.Machine

/-- A rise delivered to FRE. -/
def riseOf : Instr → Option (Fin 24)
  | .termRiseAtFre t => some t
  | _ => none

/-- The rises that wait for FRE, oldest first. -/
def waitingRises (s : State) : List (Fin 24) := s.outbox.filterMap riseOf

/-- A block takes its oldest delivery while FRE handles a frame, n rises having waited when the frame began. FRE itself, which
takes the frame as one event, takes the oldest rise delivered since, and nothing else (R20, R22). -/
def takeWithin (n : Nat) (s : State) (b : Block) : State :=
  if b = .fre then
    match (waitingRises s)[n]? with
    | none => s
    | some t => freRiseTaking t s
  else takeOldest s b

/-- One extraction's write, its event delivered to every subscriber (R46, R57). Then the blocks of first take their oldest
deliveries, in the order of the list: R57 gives the subscribers of an event no order, and R99 names both orders of ILK and DRV.
ILK has taken the event before the next write and before step 3, be it not named (R22, R52, log 11). -/
def writeExtraction (n : Nat) (f : Frame) (e : Fin 96) (first : List Block) (s : State) (x : Extraction) : State :=
  let v := x.value f.data
  let d := (s.slot x.slot).event x.slot v (.entry e)
  let s1 := first.foldl (takeWithin n) (writeSlot s x.slot v (.entry e))
  if .ilkSlotEvent d ∈ s1.outbox then ilkSlotTaking d s1 else s1

/-- The writes of a frame in list order (R52), the k-th with the k-th list of the order, with none where the order ends. -/
def writeAll (n : Nat) (f : Frame) (e : Fin 96) (order : List (List Block)) (xs : List Extraction) (s : State) : State :=
  xs.zipIdx.foldl (fun s (x, k) => writeExtraction n f e (order.getD k []) s x) s

/-- Step 1 of R22 where the frame goes on: the writes in list order; then FRE takes, before step 3, the rises delivered since the
frame began that it has not taken yet. -/
def extract (s : State) (order : List (List Block)) (f : Frame) (e : Fin 96) (xs : List Extraction) : State :=
  let n := (waitingRises s).length
  let s1 := writeAll n f e order xs s
  ((waitingRises s1).drop n).foldl (fun s t => freRiseTaking t s) s1

/-- A frame that matched entry e: extraction, heartbeat, action (R22). A mode change that its extractions make reaches CSU as a
delivery, so its CLAMP patches read the applied ceiling from before or after it by the order of the takings (R57, log 11). -/
def matched (s : State) (a : Arrival) (f : Frame) (e : Fin 96) : State :=
  let xs := frtExtractions (s.entry e)
  let len := f.data.length
  let s1 := s.post (rangeRaises s a.port f e xs)
  if goesOn s.active len xs then
    let s2 := extract s1 a.order f e (writtenExtractions s.active len xs)
    let s3 := if frtHeartbeat (s.entry e) then s2.post [.heartbeat] else s2
    frameAction s3 f a.port e
  else s1

/-- FRE takes a frame (R19 to R22). -/
def freTake (s : State) (a : Arrival) (f : Frame) : State :=
  match s.active.lookup a.port f.ident with
  | none => unmatched s a.port f
  | some e => matched s a f e

end Sys2Proof.Machine
end

