-- ==== Sys2Proof/Machine/Startup.lean ====
section
/-! DEFINITION. The start-up controller: resets (R194 to R196), the image check and start-up (R197, R198), and the end of a
save (R200). -/

namespace Sys2Proof.Machine

/-! Resets. -/

/-- POWER_ON: a reset; the cause set holds POWER_ON, and RESET_LINE where the line was held low; the release starts START
unless the line is low (R194, R195, log 9). -/
def powerUp (s : State) : State :=
  let s1 := applyReset s
  let s2 := s1.setSys { s1.sys with powered := true, causes := { powerOn := true, resetLine := s.sys.resetLow } }
  if s.sys.resetLow then s2 else beginStart s2

/-- POWER_ON (R194). -/
def execPowerOn (s : State) : Host.Outcome State Fault Refusal := .next (powerUp s)

/-- POWER_FAIL: the part is held in reset while the supply is below its range (R194). -/
def powerDown (s : State) : State :=
  let s1 := applyReset s
  s1.setSys { s1.sys with powered := false }

/-- POWER_FAIL (R194). -/
def execPowerFail (s : State) : Host.Outcome State Fault Refusal := .next (powerDown s)

/-- RESET_LINE: a reset that adds RESET_LINE and lasts while the line is low (R194, R195). -/
def lineReset (s : State) : State :=
  let s1 := applyReset s
  s1.setSys { s1.sys with resetLow := true, causes := { s1.sys.causes with resetLine := true } }

/-- RESET_LINE (R194). -/
def execResetLine (s : State) : Host.Outcome State Fault Refusal := .next (lineReset s)

/-- The reset line rises: the reset is released where the supply is in range, and START begins (R197). -/
def lineRelease (s : State) : State :=
  if s.sys.resetLow then
    let s1 := s.setSys { s.sys with resetLow := false }
    if s.sys.powered then beginStart s1 else s1
  else s

/-- RESET_LINE_RELEASE (R197). -/
def execResetLineRelease (s : State) : Host.Outcome State Fault Refusal := .next (lineRelease s)

/-- A MANAGEMENT reset, applied and released at once (R194, R195, R196). -/
def managementReset (s : State) : State :=
  let s1 := applyReset s
  beginStart (s1.setSys { s1.sys with causes := { s1.sys.causes with management := true } })

/-! Start-up. -/

/-- The image read is good: the read succeeded within 40 ms and the image passes its check (R197). -/
def imageGood (s : State) (readGood : Bool) (since : Nat) : Bool :=
  readGood && decide (s.now ≤ since + Config.storeReadLimit) && s.sys.store.good

/-- The start-up controller at the end of START (R195, R197). -/
def SysRec.started (r : SysRec) (good : Bool) : SysRec :=
  { r with
    phase := .run
    readAt := none
    fallback := !good
    causes := if good then r.causes else { r.causes with startFallback := true } }

/-- The tables become active and shadow set, the ports take their rates (R15, R182, R197). -/
def loadTables (s : State) (t : Tables) : State :=
  (((s.setActive t).setMgt { shadow := t }).setPort .cp { s.cp with rate := t.param 0 }).setPort .bp
    { s.bp with rate := t.param 1 }

/-- The blocks take the beginning of RUN (R198): SIG, TNK's records, the ceilings, ILK's recomputation, CSU's taking. -/
def beginRun (s : State) : State := csuCommit (ilkBegin (csuBegin (tnkBegin (sigBegin s))))

/-- START ends: the good image or the fallback configuration becomes active and RUN begins; STORE_FAULT is raised where the
image failed (R197, R198). -/
def endStart (s : State) (good : Bool) : State :=
  let t := if good then s.sys.store.tables else Tables.fallback
  let s1 := beginRun (loadTables (s.setSys (s.sys.started good)) t)
  if good then s1 else s1.raise { cls := .storeFault, mode := .road }

/-- The store read completes; outside START no read is under way. -/
def readComplete (s : State) (readGood : Bool) : State :=
  match s.sys.phase, s.sys.readAt with
  | .start, some since => endStart s (imageGood s readGood since)
  | _, _ => s

/-- STORE_READ_COMPLETION (R197). -/
def execStoreReadCompletion (readGood : Bool) (s : State) : Host.Outcome State Fault Refusal :=
  .next (readComplete s readGood)

/-- 40 ms have passed since the store read began: the image fails (R197). -/
def readTimeout (s : State) : State :=
  match s.sys.phase, s.sys.readAt with
  | .start, some since => endStart (s.clock (since + Config.storeReadLimit)) false
  | _, _ => s

/-- STORE_READ_TIMEOUT (R197). -/
def execStoreReadTimeout (s : State) : Host.Outcome State Fault Refusal := .next (readTimeout s)

/-! The end of a save. -/

/-- The save state becomes IDLE. -/
def saveIdle (s : State) : State := s.setMgt { s.mgt with save := none }

/-- A save ends well: the stored image is the active set's, the response OK (R199, R200). -/
def saveGood (s : State) (r : SaveRec) : State :=
  respond ((saveIdle s).setSys { s.sys with store := StoredImage.ofTables s.active }) r.port (ReqCode.byte .save) r.tag .ok []

/-- A save fails: the image stays invalid, the response is STORE_ERROR, STORE_FAULT is raised (R200). -/
def saveBad (s : State) (r : SaveRec) : State :=
  (respond (saveIdle s) r.port (ReqCode.byte .save) r.tag .storeError []).raise { cls := .storeFault, mode := s.ilk.mode }

/-- The save in flight ends. -/
def saveEnd (s : State) (writesDone checkHolds : Bool) : State :=
  match s.mgt.save with
  | none => s
  | some r => if writesDone && checkHolds then saveGood s r else saveBad s r

/-- SAVE_COMPLETION (R200). -/
def execSaveCompletion (writesDone checkHolds : Bool) (s : State) : Host.Outcome State Fault Refusal :=
  .next (s.inRun fun s => saveEnd s writesDone checkHolds)

end Sys2Proof.Machine
end

