-- ==== Sys2Proof/Machine/Mgt.lean ====
section
/-! DEFINITION. MGT: what each request does once MGT has taken it (R178 to R193), with the data of the responses
(11 sections 11.1 and 11.2). -/

namespace Sys2Proof.Machine

/-! Judgement of a request (R180). -/

/-- The first judgement that fails (R180). -/
def firstRefusal : List (Option Result) → Option Result
  | [] => none
  | some r :: _ => some r
  | none :: rest => firstRefusal rest

/-- A judgement: the result where it fails. -/
def failsWith (fails : Bool) (res : Result) : Option Result := if fails then some res else none

/-- Step 1: the operands. Where both results apply, which one answers is a free value (log 17). -/
def judgeOperands (code : ReqCode) (badIndex badValue : Bool) : Option Result :=
  match badIndex, badValue with
  | false, false => none
  | true, false => some .badIndex
  | false, true => some .badRequest
  | true, true => some (if Config.badIndexFirst code.byte then .badIndex else .badRequest)

/-- Step 2: SERVICE privilege (R180). -/
def judgeService (s : State) : Option Result := failsWith (!s.service) .refusedPrivilege

/-- The response to a request (R178). -/
def reply (s : State) (code : ReqCode) (r : Request) (res : Result) (data : List Byte) : State :=
  respond s r.port code.byte r.tag res data

/-- A request judged: the first refusal is answered, alone and without effect; else it is taken (R180). -/
def judgedBy (s : State) (code : ReqCode) (r : Request) (refusals : List (Option Result)) (k : State) : State :=
  match firstRefusal refusals with
  | some res => reply s code r res []
  | none => k

/-! READ_STATUS. -/

/-- Byte n of the free bits of this response (log 15). -/
def freeByte (s : State) (n : Nat) : Byte := s.freeBits.extractLsb' (8 * n) 8

/-- The last commit outcome code. -/
def commitCode : CommitOutcome → Nat
  | .none => 0
  | .ok => 1
  | .rejected _ _ => 2

/-- Bytes 5 and 6 of selector 0: table and index of a REJECTED outcome; free where there is none (log 15). -/
def commitBytes (s : State) : List Byte :=
  match s.mgt.lastCommit with
  | .rejected t i => [lowByte t, lowByte i]
  | _ => [freeByte s 0, freeByte s 1]

/-- Selector 0 (R181). -/
def generalStatus (s : State) : List Byte :=
  packByte [(modeCode s.ilk.mode, 0), (flagNat (s.tnk.supply == .hydrant), 3), (supervisionCode s.csu.sup, 4),
      (flagNat s.exc.summary, 6), (flagNat s.service, 7)]
    :: packByte [(flagNat s.mgt.modified, 0), (flagNat s.mgt.save.isSome, 1), (commitCode s.mgt.lastCommit, 2),
      (flagNat s.sys.fallback, 4)]
    :: commitBytes s

/-- Kind of a running drive timer. -/
def timerCode : Option (DriveTimer × Nat) → Nat
  | none => 0
  | some (.settle, _) => 1
  | some (.verify, _) => 2
  | some (.release, _) => 3

/-- Origin code. -/
def originCode : Option Origin → Nat
  | none => 0
  | some .signal => 1
  | some .management => 2

/-- Time left of a running drive timer, ms (R118). -/
def timeLeft (now : Nat) : Option (DriveTimer × Nat) → Nat
  | none => 0
  | some (_, t) => t - now

/-- Selectors 1 to 3 (R118). -/
def channelStatus (s : State) (c : Channel) : List Byte :=
  let r := s.chan c
  [lowByte (driveCode r.state), packByte [(timerCode r.timer, 0), (originCode r.origin, 2)],
    lowByte (timeLeft s.now r.timer), highByte (timeLeft s.now r.timer), outcomeByte r.outcome]

/-- Level in use; absent, its bytes are free (log 15). -/
def levelBytes (s : State) : Option Raw → List Byte
  | some v => [lowByte v.toNat, highByte v.toNat]
  | none => [freeByte s 0, freeByte s 1]

/-- The valve bits of selector 4 (R147). -/
def valveFields (n : TnkRec) : Tank → List (Nat × Nat)
  | .water => [(flagNat n.tankOpen, 4), (flagNat n.override, 5), (flagNat n.fillOpen, 6), (flagNat n.runDry.isSome, 7)]
  | .foamA | .foamB => []

/-- Selectors 4 to 6 (R147). -/
def tankStatus (s : State) (k : Tank) : List Byte :=
  let r := s.tnk.tank k
  levelBytes s r.level ++
    [packByte [(bandCode r.band, 0), (senderCode r.sender, 3), (sourceCode r.source, 5), (flagNat r.level.isSome, 7)],
      packByte ((r.strikes % 4, 0) :: (r.agree % 4, 2) :: valveFields s.tnk k)]

/-- Ramp time left in 4 ms units, rounded up; 1 or more while the timer runs (R161). -/
def rampLeft (now : Nat) : Option Nat → Nat
  | none => 0
  | some t => max 1 ((t - now + 3) / 4)

/-- Selector 7 (R161). -/
def ceilingStatus (s : State) : List Byte :=
  [lowByte s.csu.target.toNat, highByte s.csu.target.toNat, lowByte s.csu.applied.toNat, highByte s.csu.applied.toNat,
    lowByte (rampLeft s.now s.csu.ramp)]

/-- State byte of a port in selector 8. -/
def portByte (r : PortRec) : Byte :=
  packByte [(r.count / 256 % 2, 0), (portStateCode r.state, 1), (r.partDepth % 4, 3)]

/-- Selector 8 (R17). -/
def portStatus (s : State) : List Byte :=
  [lowByte s.cp.count, portByte s.cp, packByte [(s.cp.forwardedDepth % 16, 0), (s.bp.forwardedDepth % 16, 4)],
    lowByte s.bp.count, portByte s.bp]

/-- Reissue records that are not empty (R42). -/
def reissueDepth (s : State) : Nat := (s.fre.reissue.toList.filter Option.isSome).length

/-- Selector 9 (R34, R42). -/
def holdStatus (s : State) : List Byte := [lowByte s.fre.hold.length, lowByte (reissueDepth s)]

/-- The data of READ_STATUS; absent for a selector above 9 (R181). -/
def statusData (s : State) (sel : Nat) : Option (List Byte) :=
  match sel with
  | 0 => some (generalStatus s)
  | 1 => some (channelStatus s .main)
  | 2 => some (channelStatus s .roll)
  | 3 => some (channelStatus s .aux)
  | 4 => some (tankStatus s .water)
  | 5 => some (tankStatus s .foamA)
  | 6 => some (tankStatus s .foamB)
  | 7 => some (ceilingStatus s)
  | 8 => some (portStatus s)
  | 9 => some (holdStatus s)
  | _ => none

/-- READ_STATUS taken (R181). -/
def mgtReadStatus (r : Request) (s : State) : State :=
  match statusData s r.b2.toNat with
  | none => reply s .readStatus r .badIndex []
  | some data => reply s.drawn .readStatus r .ok data

/-! Reads of slots and tables. -/

/-- The data of READ_SIGNAL (R66). -/
def signalData (s : State) (i : Fin 32) : List Byte :=
  let r := s.slot i
  [lowByte r.value.toNat, highByte r.value.toNat, lowByte (r.age s.now), highByte (r.age s.now), writerByte r]

/-- READ_SIGNAL taken (R66). -/
def mgtReadSignal (r : Request) (s : State) : State :=
  if h : r.b2.toNat < 32 then reply s .readSignal r .ok (signalData s ⟨r.b2.toNat, h⟩)
  else reply s .readSignal r .badIndex []

/-- Table number of operand byte 2 (R184). -/
def tableOperand (r : Request) : Nat := r.b2.toNat / 16

/-- Part number of operand byte 2 (R184). -/
def partOperand (r : Request) : Nat := r.b2.toNat % 16

/-- Index operand (R184). -/
def indexOperand (r : Request) : Nat := r.b3.toNat

/-- READ_ACTIVE taken (R183). -/
def mgtReadActive (r : Request) (s : State) : State :=
  match s.active.readPart (tableOperand r) (indexOperand r) (partOperand r) with
  | none => reply s .readActive r .badIndex []
  | some v => reply s .readActive r .ok (bytesOf 4 v)

/-- The rejection mark of a record of an untagged table (R182). -/
def MgtRec.mark (m : MgtRec) (tb ix : Nat) : Bool :=
  match tb with
  | 3 => m.roleMarks.toList.getD ix false
  | 4 => m.slotMarks.toList.getD ix false
  | 7 => m.paramMarks.toList.getD ix false
  | _ => false

/-- READ_SHADOW taken (R183). -/
def mgtReadShadow (r : Request) (s : State) : State :=
  match s.mgt.shadow.readPart (tableOperand r) (indexOperand r) (partOperand r) with
  | none => reply s .readShadow r .badIndex []
  | some v => reply s .readShadow r .ok (bytesOf 4 v ++ [lowByte (flagNat (s.mgt.mark (tableOperand r) (indexOperand r)))])

/-! Writes to the shadow set. -/

/-- The four data bytes of a WRITE_SHADOW (R184). -/
def wordOperand (r : Request) : Image4 := r.b7 ++ r.b6 ++ r.b5 ++ r.b4

/-- A write of part 0 of a tagged table whose tag is neither EMPTY nor VALID (R184). -/
def badTag (r : Request) : Bool := taggedTable (tableOperand r) && decide ((partOperand r) = 0) && decide (1 < r.b4.toNat)

/-- A write clears the rejection mark of an untagged record (R184). -/
def MgtRec.unmark (m : MgtRec) (tb ix : Nat) : MgtRec :=
  match tb with
  | 3 => { m with roleMarks := m.roleMarks.setIfInBounds ix false }
  | 4 => { m with slotMarks := m.slotMarks.setIfInBounds ix false }
  | 7 => { m with paramMarks := m.paramMarks.setIfInBounds ix false }
  | _ => m

/-- WRITE_SHADOW's effect: the part replaced, the shadow state MODIFIED (R184). -/
def writeShadow (r : Request) (s : State) (t : Tables) : State :=
  s.setMgt { s.mgt.unmark (tableOperand r) (indexOperand r) with shadow := t, modified := true }

/-- WRITE_SHADOW taken (R184). -/
def mgtWriteShadow (r : Request) (s : State) : State :=
  let t := s.mgt.shadow.writePart (tableOperand r) (indexOperand r) (partOperand r) (wordOperand r)
  judgedBy s .writeShadow r [judgeOperands .writeShadow t.isNone (badTag r), judgeService s]
    (reply (writeShadow r s (t.getD s.mgt.shadow)) .writeShadow r .ok [])

/-- A MGT state whose shadow set is this one, CLEAN and unmarked (R182, R185, R191). -/
def MgtRec.clean (m : MgtRec) (t : Tables) : MgtRec :=
  { m with
    shadow := t
    roleMarks := Vector.replicate 11 false
    slotMarks := Vector.replicate 32 false
    paramMarks := Vector.replicate 24 false
    modified := false }

/-- REVERT_SHADOW's effect (R185). -/
def revertShadow (s : State) : State := s.setMgt (s.mgt.clean s.active)

/-- REVERT_SHADOW taken (R185). -/
def mgtRevertShadow (r : Request) (s : State) : State :=
  judgedBy s .revertShadow r [judgeService s] (reply (revertShadow s) .revertShadow r .ok [])

/-! COMMIT. -/

/-- Drive states in which a commit finds the channels: MAIN and ROLL DISENGAGED, AUX DISENGAGED or FAULTED (R116, R186,
log 10). -/
def drivesAtRest (s : State) : Bool :=
  s.drv.main.state == .disengaged && s.drv.roll.state == .disengaged
    && (s.drv.aux.state == .disengaged || s.drv.aux.state == .faulted)

/-- The mode and drive states allow a COMMIT (R186). -/
def commitAllowed (s : State) : Bool := s.sys.fallback || (s.ilk.mode == .parked && drivesAtRest s)

/-- A failed commit: failing records marked, the others unmarked, the outcome kept (R190). -/
def failCommit (s : State) (failed : List (Nat × Nat)) (first : Nat × Nat) : State :=
  s.setMgt { s.mgt with
    shadow := s.mgt.shadow.retagged failed
    roleMarks := Vector.ofFn fun i => failed.contains (3, i.val)
    slotMarks := Vector.ofFn fun i => failed.contains (4, i.val)
    paramMarks := Vector.ofFn fun i => failed.contains (7, i.val)
    lastCommit := .rejected first.1 first.2 }

/-- Activation: the shadow set, its passing REJECTED records VALID again, becomes the active set (R187, R191). -/
def activate (s : State) : State :=
  let t := s.mgt.shadow.retagged []
  ((s.setActive t).setMgt { s.mgt.clean t with lastCommit := .ok }).setSys { s.sys with fallback := false }

/-- The blocks take the commit, in the order of R192: EXC, FRE, SIG, TNK, ILK, CSU. DRV keeps every channel (R116). After each of
these six steps the blocks that its list of the order names take what R191 and R192 let them take there (commitTurn, log 12). -/
def handCommit (order : List (List Block)) (before : Tables) (s : State) : State :=
  let turn := commitTurn order s.outbox
  let s1 := turn 0 (maskChange s before.mask)
  let s2 := turn 1 (freCommit s1)
  let s3 := turn 2 (sigCommit before s2)
  let s4 := turn 3 (tnkCommit before s3)
  let s5 := turn 4 (ilkCommit s4)
  turn 5 (csuCommit s5)

/-- COMMIT after its judgement: validation, then failure or success (R186, R190 to R193). -/
def commit (r : Request) (s : State) : State :=
  match s.mgt.shadow.failing with
  | [] => reply (handCommit r.order s.active (activate s)) .commit r .ok []
  | first :: rest =>
    reply (failCommit s (first :: rest) first) .commit r .rejected
      [lowByte first.1, lowByte first.2, lowByte (rest.length + 1)]

/-- A SAVE is in flight (R180). -/
def judgeSave (s : State) : Option Result := failsWith s.mgt.save.isSome .busy

/-- COMMIT taken (R186). -/
def mgtCommit (r : Request) (s : State) : State :=
  judgedBy s .commit r [judgeService s, judgeSave s, failsWith (!commitAllowed s) .refusedMode] (commit r s)

/-! SAVE, RESET_PART, READ_RESET_CAUSE. -/

/-- PARKED, or the fallback state set (R196, R199). -/
def parkedOrFallback (s : State) : Bool := s.sys.fallback || s.ilk.mode == .parked

/-- SAVE accepted: IN_FLIGHT, the stored image marked invalid (R199). -/
def acceptSave (r : Request) (s : State) : State :=
  (s.setMgt { s.mgt with save := some { port := r.port, tag := r.tag, since := s.now } }).setSys
    { s.sys with store := s.sys.store.invalidated }

/-- SAVE taken; its response is formed at the completion (R199, R200). -/
def mgtSave (r : Request) (s : State) : State :=
  judgedBy s .save r [judgeService s, judgeSave s, failsWith (!parkedOrFallback s) .refusedMode] (acceptSave r s)

/-- RESET_PART taken; no response is formed for a reset (R196). -/
def mgtResetPart (r : Request) (s : State) : State :=
  judgedBy s .resetPart r [judgeService s, failsWith (!parkedOrFallback s) .refusedMode] (managementReset s)

/-- The highest-ranking member of the reset cause set, or 0 (R195). -/
def topCause (c : ResetCauses) : Nat :=
  if c.powerOn then 1 else if c.resetLine then 2 else if c.management then 3 else if c.startFallback then 4 else 0

/-- The set without its highest-ranking member (R195). -/
def dropCause (c : ResetCauses) : ResetCauses :=
  if c.powerOn then { c with powerOn := false }
  else if c.resetLine then { c with resetLine := false }
  else if c.management then { c with management := false }
  else { c with startFallback := false }

/-- The members of the set as bits m - 1 (11 section 11.1). -/
def causeByte (c : ResetCauses) : Byte :=
  packByte [(flagNat c.powerOn, 0), (flagNat c.resetLine, 1), (flagNat c.management, 2), (flagNat c.startFallback, 3)]

/-- READ_RESET_CAUSE taken (R195). -/
def mgtReadResetCause (r : Request) (s : State) : State :=
  let c := s.sys.causes
  reply (s.setSys { s.sys with causes := dropCause c }) .readResetCause r .ok [lowByte (topCause c), causeByte (dropCause c)]

/-! Exceptions. -/

/-- The exception flags as three bytes (11 section 11.1). -/
def flagBytes (flags : BitVec 18) : List Byte := bytesOf 3 flags

/-- READ_EVENT taken (R173). -/
def mgtReadEvent (r : Request) (s : State) : State :=
  let s1 := readHighest s
  reply s1 .readEvent r .ok
    (lowByte (highestClass s.exc.pend) :: lowByte (classesIn s1.exc.pend).length :: flagBytes s1.exc.flags)

/-- CLEAR_EXCEPTIONS taken (R175). -/
def mgtClearExceptions (r : Request) (s : State) : State :=
  judgedBy s .clearExceptions r [judgeService s] (reply (clearFlags s) .clearExceptions r .ok [])

/-- CLEAR_CAPTURE taken (R176). -/
def mgtClearCapture (r : Request) (s : State) : State :=
  judgedBy s .clearCapture r [judgeService s] (reply (emptyCapture s) .clearCapture r .ok [])

/-- Port code of READ_CAPTURE: 3 for absent (11 section 11.2). -/
def portCode : Option Port → Nat
  | some .cp => 0
  | some .bp => 1
  | none => 3

/-- A one-byte field that reads 255 where absent (11 section 11.2). -/
def optByte (n : Option Nat) : Byte := lowByte (n.getD 255)

/-- Class of the capture record, 0 for the empty record. -/
def captureClass : Option Capture → Nat
  | none => 0
  | some k => classNumber k.raise.cls

/-- Part 0 (R174). In the empty record mode and further flag are absent, so their bits are free (log 15). -/
def capturePart0 (s : State) : List Byte :=
  match s.exc.capture with
  | none => [0, packByte [((freeByte s 0).toNat % 16, 0), (3, 4)], 0]
  | some k =>
    [lowByte (classNumber k.raise.cls),
      packByte [(modeCode k.raise.mode, 0), (flagNat k.further, 3), (portCode k.raise.port, 4)],
      lowByte (reasonCode k.raise.reason)]

/-- Identifier and length word of part 1. -/
def frameWord (f : Frame) : BitVec 32 := BitVec.ofNat 32 (f.ident.toNat + f.data.length % 8 * 2 ^ 29)

/-- Part 1 (R174). Without a frame, its format, length and identifier bits are free (log 15). -/
def capturePart1 (s : State) : List Byte :=
  let cls := captureClass s.exc.capture
  match s.exc.capture.bind (·.raise.frame) with
  | none =>
    packByte [(cls, 0), ((freeByte s 4).toNat % 4, 6)] :: [freeByte s 0, freeByte s 1, freeByte s 2, freeByte s 3]
  | some f =>
    packByte [(cls, 0), (1, 5), (flagNat (!f.ext), 6), (f.data.length / 8 % 2, 7)] :: bytesOf 4 (frameWord f)

/-- Parts 2 and 3: data bytes from byte lo on; 0 beyond the frame's length, 255 without a frame (R174, log 25). -/
def captureData (s : State) (lo : Nat) : List Byte :=
  lowByte (captureClass s.exc.capture) ::
    (match s.exc.capture.bind (·.raise.frame) with
      | none => [255, 255, 255, 255]
      | some f => [f.data.getD lo 0, f.data.getD (lo + 1) 0, f.data.getD (lo + 2) 0, f.data.getD (lo + 3) 0])

/-- Part 4 (R174). -/
def capturePart4 (s : State) : List Byte :=
  let r := s.exc.capture.map (·.raise)
  [lowByte (captureClass s.exc.capture), optByte ((r.bind (·.entry)).map (·.val)), optByte ((r.bind (·.term)).map (·.val)),
    optByte ((r.bind (·.channel)).map fun c => (channelIndex c).val),
    optByte ((r.bind (·.tank)).map fun k => (tankIndex k).val)]

/-- The data of READ_CAPTURE; absent for a part above 4 (R174). -/
def captureBytes (s : State) (part : Nat) : Option (List Byte) :=
  match part with
  | 0 => some (capturePart0 s)
  | 1 => some (capturePart1 s)
  | 2 => some (captureData s 0)
  | 3 => some (captureData s 4)
  | 4 => some (capturePart4 s)
  | _ => none

/-- READ_CAPTURE taken (R174). -/
def mgtReadCapture (r : Request) (s : State) : State :=
  match captureBytes s r.b2.toNat with
  | none => reply s .readCapture r .badIndex []
  | some data => reply s.drawn .readCapture r .ok data

/-! DRIVE_COMMAND and VALVE_COMMAND. -/

/-- Actions of DRIVE_COMMAND (11 section 11.1). -/
inductive DriveAction where
  | engage | disengage | clear
  deriving DecidableEq, Repr

/-- Action codes. -/
def driveActionOf : Nat → Option DriveAction
  | 0 => some .engage
  | 1 => some .disengage
  | 2 => some .clear
  | _ => none

/-- DRV takes the action with origin MANAGEMENT (R115). -/
def driveAction (s : State) (c : Channel) : DriveAction → State × DriveResult
  | .engage => engage s c .management
  | .disengage => disengage s c
  | .clear => clearDrive s c

/-- Reason byte of a REFUSED response: 1 NOT_PERMITTED, 2 EXCLUSIVE, 3 CONFLICT (11 section 11.1). -/
def refusedByte : DriveResult → Byte
  | .refused r => lowByte (refuseCode r + 1)
  | .ok | .busy => 0

/-- Result of a drive result. -/
def driveResult : DriveResult → Result
  | .ok => .ok
  | .busy => .busy
  | .refused _ => .refused

/-- DRIVE_COMMAND delivered and answered, with state and last outcome as DRV leaves them (R115). -/
def commandDrive (r : Request) (s : State) (c : Channel) (a : DriveAction) : State :=
  let s1 := (driveAction s c a).1
  let res := (driveAction s c a).2
  reply s1 .driveCommand r (driveResult res)
    [refusedByte res, lowByte (driveCode (s1.chan c).state), outcomeByte (s1.chan c).outcome]

/-- DRIVE_COMMAND taken (R115). -/
def mgtDriveCommand (r : Request) (s : State) : State :=
  let c := channelOf r.b2.toNat
  let a := driveActionOf r.b3.toNat
  judgedBy s .driveCommand r
    [judgeOperands .driveCommand c.isNone a.isNone, if a = some .clear then judgeService s else none]
    (match c, a with
      | some c, some a => commandDrive r s c a
      | _, _ => s)

/-- Valve and action codes: 0 TANK, 1 FILL; 0 OPEN, 1 CLOSE (R144). -/
def valveActionOf : Nat → Nat → Option ValveAction
  | 0, 0 => some .tankOpen
  | 0, 1 => some .tankClose
  | 1, 0 => some .fillOpen
  | 1, 1 => some .fillClose
  | _, _ => none

/-- The valve byte of a VALVE_COMMAND response (R144, 11 section 11.1). -/
def valveByte (s : State) : Byte :=
  packByte [(flagNat s.tnk.tankOpen, 0), (flagNat s.tnk.override, 1), (flagNat s.outs.tank, 2), (flagNat s.tnk.fillOpen, 3)]

/-- VALVE_COMMAND delivered and answered (R144). Reason 4 is FILL. -/
def commandValve (r : Request) (s : State) (a : ValveAction) : State :=
  let s1 := valveTake s a
  if (valveRequest s.tnk a).2 then reply s1 .valveCommand r .refused [4, valveByte s1]
  else reply s1 .valveCommand r .ok [0, valveByte s1]

/-- VALVE_COMMAND taken (R144). -/
def mgtValveCommand (r : Request) (s : State) : State :=
  judgedBy s .valveCommand r [judgeOperands .valveCommand (decide (1 < r.b2.toNat)) (decide (1 < r.b3.toNat))]
    (match valveActionOf r.b2.toNat r.b3.toNat with
      | some a => commandValve r s a
      | none => s)

end Sys2Proof.Machine
end

