-- ==== Sys2Proof/Machine/Frames.lean ====
section
/-! DEFINITION. Frames and requests as the ports receive them and hand them on (R1 to R4), and the meanings of the frame and
request commands. -/

namespace Sys2Proof.Machine

/-! Reception. -/

/-- What a frame begun at this time does that completes on port p: nothing where the port does not receive it (R1, R2, R13),
else what the block it goes to does. -/
def State.received (s : State) (p : Port) (begun : Nat) (k : State → State) : State := if s.receives p begun then k s else s

/-- The request of this code taken by MGT. -/
def mgtTake (code : ReqCode) (r : Request) (s : State) : State :=
  match code with
  | .readStatus => mgtReadStatus r s
  | .readSignal => mgtReadSignal r s
  | .readActive => mgtReadActive r s
  | .readShadow => mgtReadShadow r s
  | .writeShadow => mgtWriteShadow r s
  | .revertShadow => mgtRevertShadow r s
  | .commit => mgtCommit r s
  | .save => mgtSave r s
  | .readEvent => mgtReadEvent r s
  | .readCapture => mgtReadCapture r s
  | .clearExceptions => mgtClearExceptions r s
  | .clearCapture => mgtClearCapture r s
  | .driveCommand => mgtDriveCommand r s
  | .valveCommand => mgtValveCommand r s
  | .readResetCause => mgtReadResetCause r s
  | .resetPart => mgtResetPart r s

/-- The BAD_REQUEST response to a short frame or an undefined code: bytes 0 and 1 echoed, 0 for each that the frame lacks
(R179). -/
def badRequest (s : State) (p : Port) (data : List Byte) : State :=
  respond s p (data.getD 0 0) (data.getD 1 0) .badRequest []

/-- MGT takes a frame (R178, R179). -/
def mgtFrame (s : State) (a : Arrival) (data : List Byte) : State :=
  match reqCodeOf (data.getD 0 0) with
  | none => badRequest s a.port data
  | some code => if data.length < 8 then badRequest s a.port data else mgtTake code (requestOf a data) s

/-- A frame with an extended identifier goes to MGT where the identifier is MGMT_BASE and MGMT_PORTS allows the port, else to
FRE (R3). -/
def handOn (s : State) (a : Arrival) (id : Ident) (data : List Byte) : State :=
  if id = s.active.mgmtBase ∧ s.active.mgmtAllows a.port then mgtFrame s a (data.take 8)
  else freTake s a (extFrame id data)

/-- A request frame completes on its port: to MGT where MGMT_PORTS allows the port, else to FRE (R3, log 5). -/
def requestFrame (code : ReqCode) (k : Request → State → State) (r : Request) (s : State) : State :=
  s.received r.port r.begun fun s =>
    if s.active.mgmtAllows r.port then k r s
    else freTake s r.toArrival (extFrame s.active.mgmtBase (requestBytes r code))

/-! Frames. -/

/-- REMOTE_FRAME: received and discarded (R1). -/
def execRemoteFrame (_p : Port) (_ext : Bool) (_ident : Ident) (s : State) : Host.Outcome State Fault Refusal := .next s

/-- START_FRAME_DISCARD: in START a frame is received and discarded (R2). -/
def execStartFrameDiscard (_p : Port) (_f : Frame) (s : State) : Host.Outcome State Fault Refusal := .next s

/-- STANDARD_FRAME: UNMATCHED_ACTION decides (R4). -/
def execStandardFrame (a : Arrival) (ident : BitVec 11) (data : List Byte) (s : State) :
    Host.Outcome State Fault Refusal :=
  .next (s.received a.port a.begun fun s => unmatched s a.port (stdFrame ident data))

/-- FRAME_HANDLED_BY_FRE: a frame with an extended identifier (R3, R22). -/
def execFrameHandledByFre (a : Arrival) (ident : Ident) (data : List Byte) (s : State) :
    Host.Outcome State Fault Refusal :=
  .next (s.received a.port a.begun fun s => handOn s a ident data)

/-- BAD_REQUEST_FRAME: a frame with identifier MGMT_BASE (R3, R179). -/
def execBadRequestFrame (a : Arrival) (data : List Byte) (s : State) : Host.Outcome State Fault Refusal :=
  .next (s.received a.port a.begun fun s => handOn s a s.active.mgmtBase data)

/-! Requests. -/

/-- READ_STATUS (R181). -/
def execReadStatus (r : Request) (s : State) : Host.Outcome State Fault Refusal :=
  .next (requestFrame .readStatus mgtReadStatus r s)

/-- READ_SIGNAL (R66). -/
def execReadSignal (r : Request) (s : State) : Host.Outcome State Fault Refusal :=
  .next (requestFrame .readSignal mgtReadSignal r s)

/-- READ_ACTIVE (R183). -/
def execReadActive (r : Request) (s : State) : Host.Outcome State Fault Refusal :=
  .next (requestFrame .readActive mgtReadActive r s)

/-- READ_SHADOW (R183). -/
def execReadShadow (r : Request) (s : State) : Host.Outcome State Fault Refusal :=
  .next (requestFrame .readShadow mgtReadShadow r s)

/-- WRITE_SHADOW (R184). -/
def execWriteShadow (r : Request) (s : State) : Host.Outcome State Fault Refusal :=
  .next (requestFrame .writeShadow mgtWriteShadow r s)

/-- REVERT_SHADOW (R185). -/
def execRevertShadow (r : Request) (s : State) : Host.Outcome State Fault Refusal :=
  .next (requestFrame .revertShadow mgtRevertShadow r s)

/-- COMMIT (R186). -/
def execCommit (r : Request) (s : State) : Host.Outcome State Fault Refusal :=
  .next (requestFrame .commit mgtCommit r s)

/-- SAVE (R199). -/
def execSave (r : Request) (s : State) : Host.Outcome State Fault Refusal :=
  .next (requestFrame .save mgtSave r s)

/-- READ_EVENT (R173). -/
def execReadEvent (r : Request) (s : State) : Host.Outcome State Fault Refusal :=
  .next (requestFrame .readEvent mgtReadEvent r s)

/-- READ_CAPTURE (R174). -/
def execReadCapture (r : Request) (s : State) : Host.Outcome State Fault Refusal :=
  .next (requestFrame .readCapture mgtReadCapture r s)

/-- CLEAR_EXCEPTIONS (R175). -/
def execClearExceptions (r : Request) (s : State) : Host.Outcome State Fault Refusal :=
  .next (requestFrame .clearExceptions mgtClearExceptions r s)

/-- CLEAR_CAPTURE (R176). -/
def execClearCapture (r : Request) (s : State) : Host.Outcome State Fault Refusal :=
  .next (requestFrame .clearCapture mgtClearCapture r s)

/-- DRIVE_COMMAND (R115). -/
def execDriveCommand (r : Request) (s : State) : Host.Outcome State Fault Refusal :=
  .next (requestFrame .driveCommand mgtDriveCommand r s)

/-- VALVE_COMMAND (R144). -/
def execValveCommand (r : Request) (s : State) : Host.Outcome State Fault Refusal :=
  .next (requestFrame .valveCommand mgtValveCommand r s)

/-- READ_RESET_CAUSE (R195). -/
def execReadResetCause (r : Request) (s : State) : Host.Outcome State Fault Refusal :=
  .next (requestFrame .readResetCause mgtReadResetCause r s)

/-- RESET_PART (R196). -/
def execResetPart (r : Request) (s : State) : Host.Outcome State Fault Refusal :=
  .next (requestFrame .resetPart mgtResetPart r s)

end Sys2Proof.Machine
end

