-- ==== Sys2Proof/Machine/Ports.lean ====
section
/-! DEFINITION. The ports' commands: the two queuing requests (R6, R7), the end of a transmit attempt (R9, R11, R12), age
deadlines (R10) and recovery (R13). -/

namespace Sys2Proof.Machine

/-- QUEUE_FORWARDED_FRAME (R6); in START the frame is discarded without exception (R2). -/
def execQueueForwardedFrame (p : Port) (q : ForwardRequest) (s : State) : Host.Outcome State Fault Refusal :=
  .next (s.inRun fun s => queueForwarded s p q)

/-- QUEUE_PART_ORIGINATED_FRAME (R7); in START the frame is lost (R2). -/
def execQueuePartOriginatedFrame (p : Port) (f : Frame) (s : State) : Host.Outcome State Fault Refusal :=
  .next (s.inRun fun s => queuePart s p f)

/-- The state a port that is not in OFF takes from its fault count (R11). -/
def countState (n : Nat) : PortState :=
  if Config.offCount ≤ n then .off else if Config.warnCount ≤ n then .warn else .active

/-- The fault count after a failed attempt (R11). -/
def failedCount (n : Nat) : Nat := min Config.offCount (n + 8)

/-- A port after a successful attempt: the frame gone, the count down by 1, the arbiter run (R9, R11). -/
def PortRec.succeed (r : PortRec) : PortRec :=
  PortRec.arbitrate { r with count := r.count - 1, state := countState (r.count - 1), inFlight := none }

/-- A port entering OFF: queue flushed, recovery timer started (R12). -/
def PortRec.off (r : PortRec) (recovery : Nat) : PortRec :=
  { r with state := .off, count := Config.offCount, waiting := [], inFlight := none, recovery := some recovery }

/-- The PORT_OFF or PORT_WARN raise of a port (R11, R12, R162). -/
def portRaise (s : State) (cls : ExcClass) (p : Port) : Raise := { cls := cls, mode := s.ilk.mode, port := some p }

/-- The in-flight frame at the end of a failed attempt: removed where it is forwarded and its deadline has passed, else
kept for a further attempt (R9). -/
def retryOrDrop (s : State) (p : Port) : State :=
  let r := s.port p
  match r.inFlight with
  | some { frame := f, kind := .forwarded a e d, mark := _ } =>
    if d ≤ s.now then
      (s.setPort p (PortRec.arbitrate { r with inFlight := none })).raise (txDiscard s f a e .stale)
    else s
  | _ => s

/-- A failed attempt (R9, R11, R12). -/
def failAttempt (s : State) (p : Port) : State :=
  let r := s.port p
  let n := failedCount r.count
  if n = Config.offCount then
    (s.setPort p (r.off (s.now + s.active.portRecovery))).raise (portRaise s .portOff p)
  else
    let s1 := s.setPort p { r with count := n, state := countState n }
    let s2 := if r.state = .active ∧ countState n = .warn then s1.raise (portRaise s .portWarn p) else s1
    retryOrDrop s2 p

/-- The end of the attempt for a port's in-flight frame (R9); with none in flight there is no attempt (log 4). -/
def attemptEnd (s : State) (p : Port) (success : Bool) : State :=
  let r := s.port p
  if r.state = .off ∨ r.inFlight = none then s
  else if success then s.setPort p r.succeed
  else failAttempt s p

/-- TRANSMIT_ATTEMPT_END (R9). -/
def execTransmitAttemptEnd (p : Port) (success : Bool) (s : State) : Host.Outcome State Fault Refusal :=
  .next (s.inRun fun s => attemptEnd s p success)

/-- The age deadline of the i-th waiting frame of a port is reached (R10); a part-originated frame has none (R7). -/
def ageExpiry (s : State) (p : Port) (i : Nat) : State :=
  let r := s.port p
  match r.waiting[i]? with
  | some { frame := f, kind := .forwarded a e d, mark := _ } =>
    ((s.clock d).setPort p (PortRec.arbitrate { r with waiting := r.waiting.eraseIdx i })).raise
      (txDiscard s f a e .stale)
  | _ => s

/-- AGE_DEADLINE_EXPIRY (R10). -/
def execAgeDeadlineExpiry (p : Port) (i : Nat) (s : State) : Host.Outcome State Fault Refusal :=
  .next (s.inRun fun s => ageExpiry s p i)

/-- The recovery timer of a port in OFF expires; reception resumes with the next frame that begins after the expiry (R13,
log 34). -/
def recover (s : State) (p : Port) : State :=
  let r := s.port p
  match r.state, r.recovery with
  | .off, some t =>
    (s.clock t).setPort p { r with state := .active, count := 0, recovery := none, since := max s.now t }
  | _, _ => s

/-- RECOVERY_TIMER_EXPIRY (R13). -/
def execRecoveryTimerExpiry (p : Port) (s : State) : Host.Outcome State Fault Refusal :=
  .next (s.inRun fun s => recover s p)

end Sys2Proof.Machine
end

