-- ==== Sys2Proof/Machine/Dispatch.lean ====
section
/-! DEFINITION. The meaning of each command, arm by arm. -/

namespace Sys2Proof.Machine

/-- The effect of a command on everything but the queue. -/
def exec (i : Instr) (s : State) : Host.Outcome State Fault Refusal :=
  match i with
  | .remoteFrame p ext ident => Sys2Proof.Machine.execRemoteFrame p ext ident s
  | .startFrameDiscard p f => Sys2Proof.Machine.execStartFrameDiscard p f s
  | .standardFrame a ident data => Sys2Proof.Machine.execStandardFrame a ident data s
  | .frameHandledByFre a ident data => Sys2Proof.Machine.execFrameHandledByFre a ident data s
  | .badRequestFrame a data => Sys2Proof.Machine.execBadRequestFrame a data s
  | .readStatus r => Sys2Proof.Machine.execReadStatus r s
  | .readSignal r => Sys2Proof.Machine.execReadSignal r s
  | .readActive r => Sys2Proof.Machine.execReadActive r s
  | .readShadow r => Sys2Proof.Machine.execReadShadow r s
  | .writeShadow r => Sys2Proof.Machine.execWriteShadow r s
  | .revertShadow r => Sys2Proof.Machine.execRevertShadow r s
  | .commit r => Sys2Proof.Machine.execCommit r s
  | .save r => Sys2Proof.Machine.execSave r s
  | .readEvent r => Sys2Proof.Machine.execReadEvent r s
  | .readCapture r => Sys2Proof.Machine.execReadCapture r s
  | .clearExceptions r => Sys2Proof.Machine.execClearExceptions r s
  | .clearCapture r => Sys2Proof.Machine.execClearCapture r s
  | .driveCommand r => Sys2Proof.Machine.execDriveCommand r s
  | .valveCommand r => Sys2Proof.Machine.execValveCommand r s
  | .readResetCause r => Sys2Proof.Machine.execReadResetCause r s
  | .resetPart r => Sys2Proof.Machine.execResetPart r s
  | .queueForwardedFrame p q => Sys2Proof.Machine.execQueueForwardedFrame p q s
  | .queuePartOriginatedFrame p f => Sys2Proof.Machine.execQueuePartOriginatedFrame p f s
  | .transmitAttemptEnd p success => Sys2Proof.Machine.execTransmitAttemptEnd p success s
  | .ageDeadlineExpiry p n => Sys2Proof.Machine.execAgeDeadlineExpiry p n s
  | .recoveryTimerExpiry p => Sys2Proof.Machine.execRecoveryTimerExpiry p s
  | .termRiseAtFre t => Sys2Proof.Machine.execTermRiseAtFre t s
  | .termFallAtFre t => Sys2Proof.Machine.execTermFallAtFre t s
  | .holdDeadlineExpiry ident => Sys2Proof.Machine.execHoldDeadlineExpiry ident s
  | .ceilingFall => Sys2Proof.Machine.execCeilingFall s
  | .staleTimerExpiry slot => Sys2Proof.Machine.execStaleTimerExpiry slot s
  | .switchLevelChange sw high => Sys2Proof.Machine.execSwitchLevelChange sw high s
  | .debounceExpiry sw => Sys2Proof.Machine.execDebounceExpiry sw s
  | .pulseEdge pi => Sys2Proof.Machine.execPulseEdge pi s
  | .windowExpiry pi => Sys2Proof.Machine.execWindowExpiry pi s
  | .volumeUnit k => Sys2Proof.Machine.execVolumeUnit k s
  | .ilkSlotEvent e => Sys2Proof.Machine.execIlkSlotEvent e s
  | .ilkDriveStateChange c => Sys2Proof.Machine.execIlkDriveStateChange c s
  | .ilkBandChange k => Sys2Proof.Machine.execIlkBandChange k s
  | .ilkSupplyChange => Sys2Proof.Machine.execIlkSupplyChange s
  | .drvSlotEvent e => Sys2Proof.Machine.execDrvSlotEvent e s
  | .permitTermFall t => Sys2Proof.Machine.execPermitTermFall t s
  | .permitTermRise t => Sys2Proof.Machine.execPermitTermRise t s
  | .supervisionLapse => Sys2Proof.Machine.execSupervisionLapse s
  | .runDryRequest c => Sys2Proof.Machine.execRunDryRequest c s
  | .settleExpiry c => Sys2Proof.Machine.execSettleExpiry c s
  | .verifyExpiry c => Sys2Proof.Machine.execVerifyExpiry c s
  | .releaseExpiry c => Sys2Proof.Machine.execReleaseExpiry c s
  | .tnkSlotEvent e => Sys2Proof.Machine.execTnkSlotEvent e s
  | .tnkDriveStateChange c st => Sys2Proof.Machine.execTnkDriveStateChange c st s
  | .runDryExpiry => Sys2Proof.Machine.execRunDryExpiry s
  | .csuInputDelivery d => Sys2Proof.Machine.execCsuInputDelivery d s
  | .heartbeat => Sys2Proof.Machine.execHeartbeat s
  | .supervisionTimerExpiry => Sys2Proof.Machine.execSupervisionTimerExpiry s
  | .rampExpiry => Sys2Proof.Machine.execRampExpiry s
  | .exceptionRaise r => Sys2Proof.Machine.execExceptionRaise r s
  | .powerOn => Sys2Proof.Machine.execPowerOn s
  | .powerFail => Sys2Proof.Machine.execPowerFail s
  | .resetLine => Sys2Proof.Machine.execResetLine s
  | .resetLineRelease => Sys2Proof.Machine.execResetLineRelease s
  | .storeReadCompletion readGood => Sys2Proof.Machine.execStoreReadCompletion readGood s
  | .storeReadTimeout => Sys2Proof.Machine.execStoreReadTimeout s
  | .saveCompletion writesDone checkHolds => Sys2Proof.Machine.execSaveCompletion writesDone checkHolds s

end Sys2Proof.Machine
end

