-- ==== Sys2Proof/Safety.lean ====
section
/-! DEFINITION. What counts as a safe state of the block, and the words in which statements speak of its commands. -/

namespace Sys2Proof.Safety

open Sys2Proof.Machine

/-! Conditions on a state under which commands act. -/

/-- The part is in RUN. -/
def Running (s : State) : Prop := s.sys.phase = .run

/-- Port p receives a frame that began on its bus at this time: RUN, not OFF, and begun after reception last began or resumed
(R1, R13, R14). -/
def Receiving (s : State) (p : Port) (begun : Nat) : Prop :=
  s.sys.phase = .run ∧ (s.port p).state ≠ .off ∧ (s.port p).since < begun

/-- A request frame on this port goes to MGT (R3). -/
def ToMgt (s : State) (p : Port) (begun : Nat) : Prop := Receiving s p begun ∧ s.active.mgmtAllows p = true

/-- A frame with this extended identifier goes to FRE (R3). -/
def ToFre (s : State) (a : Arrival) (id : Ident) : Prop :=
  Receiving s a.port a.begun ∧ ¬(id = s.active.mgmtBase ∧ s.active.mgmtAllows a.port = true)

/-- A frame with this extended identifier goes to FRE, matches entry e and goes on after step 1 of R22: every extraction in
range, or FIELD_RANGE masked (R19, R50, R51). -/
def HandledBy (s : State) (a : Arrival) (id : Ident) (data : List Byte) (e : Fin 96) : Prop :=
  ToFre s a id ∧ s.active.lookup a.port id = some e ∧
    ((∀ x ∈ frtExtractions (s.entry e), x.fits (extFrame id data).data.length = true) ∨
      s.active.masked .fieldRange = true)

/-- The state after steps 1 and 2 of R22, for a frame that goes on. -/
def atAction (s : State) (a : Arrival) (f : Frame) (e : Fin 96) : State :=
  let xs := frtExtractions (s.entry e)
  let s1 := extract (s.post (rangeRaises s a.port f e xs)) a.order f e (xs.filter fun x => x.fits f.data.length)
  if frtHeartbeat (s.entry e) then s1.post [.heartbeat] else s1

/-- The number of records of a table, and of parts of its records (R182). -/
def tableShape : Nat → Nat × Nat
  | 0 => (96, 5)
  | 1 => (16, 5)
  | 2 => (24, 5)
  | 3 => (11, 1)
  | 4 => (32, 1)
  | 5 => (3, 5)
  | 6 => (3, 5)
  | 7 => (24, 1)
  | _ => (0, 0)

/-- The part of the record of the table exists (R183). -/
def partExists (tb ix pt : Nat) : Prop := ix < (tableShape tb).1 ∧ pt < (tableShape tb).2

/-- The command of a request. -/
def requestInstr : ReqCode → Request → Instr
  | .readStatus => .readStatus
  | .readSignal => .readSignal
  | .readActive => .readActive
  | .readShadow => .readShadow
  | .writeShadow => .writeShadow
  | .revertShadow => .revertShadow
  | .commit => .commit
  | .save => .save
  | .readEvent => .readEvent
  | .readCapture => .readCapture
  | .clearExceptions => .clearExceptions
  | .clearCapture => .clearCapture
  | .driveCommand => .driveCommand
  | .valveCommand => .valveCommand
  | .readResetCause => .readResetCause
  | .resetPart => .resetPart

/-- The last outcome byte: the kind in bits 0 to 2, the reason or cause in bits 3 to 5, from 0 in the order of R92 (11
section 11.2). -/
def outcomeCode : Option DriveOutcome → Nat
  | none => 0
  | some .engaged => 1
  | some (.refused .notPermitted) => 2
  | some (.refused .exclusive) => 2 + 8 * 1
  | some (.refused .conflict) => 2 + 8 * 2
  | some (.refused .busy) => 2 + 8 * 3
  | some (.aborted .disengage) => 3
  | some (.aborted .permitLost) => 3 + 8 * 1
  | some (.aborted .supervision) => 3 + 8 * 2
  | some (.aborted .dryRun) => 3 + 8 * 3
  | some (.failed .verifyTimeout) => 4
  | some (.failed .confirmLost) => 4 + 8 * 1
  | some (.failed .releaseCheck) => 4 + 8 * 2

/-- Commands that act outside RUN too: line levels, supply, reset line and store reads. -/
def actsOutsideRun : Instr → Bool
  | .switchLevelChange _ _ | .powerOn | .powerFail | .resetLine | .resetLineRelease | .storeReadCompletion _
  | .storeReadTimeout => true
  | _ => false

/-! The steps of a successful commit (R192): s is the state a step finds, t the state it leaves; s.active is the new set. -/

/-- A port across a commit: state, count, recovery timer and rate stay, so does every queued frame with its place; what the
commit adds is part-originated (R15, R16, R193). -/
def PortKept (r q : PortRec) : Prop :=
  q = { r with waiting := q.waiting, inFlight := q.inFlight } ∧
  (r.inFlight ≠ none → q.inFlight = r.inFlight ∧
    ∃ more, q.waiting = r.waiting ++ more ∧ ∀ x ∈ more, x.kind = .part) ∧
  (r.inFlight = none → r.waiting = [] → ∀ x ∈ q.frames, x.kind = .part)

/-- The raise of the purge for a held frame (R40). -/
def purgedRaise (m : Mode) (h : HeldFrame) : Raise :=
  { cls := .holdDiscard, mode := m, port := some h.arrival, frame := some h.frame, entry := some h.entry,
    term := some h.term, reason := some .purged }

/-- The step of EXC: a changed mask clears the pending bits of newly masked classes and takes the summary with OUT_ALARM anew;
nothing else changes, and nothing at all under the same mask (R168). -/
def CommitAtExc (before : Tables) (s t : State) : Prop :=
  let mask := s.active.mask
  let on := fun was : Bool => if before.mask = mask then was else decide (s.exc.flags &&& ~~~mask ≠ 0)
  t = { s with exc := { s.exc with pend := s.exc.pend &&& (before.mask ||| ~~~mask), summary := on s.exc.summary },
               outs := { s.outs with alarm := on s.outs.alarm } } ∧
  (before.mask = mask → t = s)

/-- The step of FRE: every held frame leaves with HOLD_DISCARD PURGED, taken under the new mask, and the reissue records are
emptied (R40, R44, R163). The first of these raises queues a notice on the report port where its class is unmasked and was not
pending and notices are on; the others find the class pending and queue none, and no port changes otherwise (R171, R172). -/
def CommitAtFre (s t : State) : Prop :=
  let mask := s.active.mask
  let bit := BitVec.twoPow 18 14
  let classes := classesIn (s.exc.pend ||| bit)
  let notice : Frame :=
    { ext := true, ident := s.active.mgmtIdent 2,
      data := [15, 1, lowByte (modeCode s.ilk.mode), lowByte classes.length, lowByte (classes.getD 0 0),
        lowByte (classes.getD 1 0), 0, 0] }
  let called := s.exc.pend.getLsbD 14 = false ∧ s.active.param 23 = 1
  t = { s with exc := t.exc, fre := { }, cp := t.cp, bp := t.bp, outs := { s.outs with alarm := t.outs.alarm } } ∧
  PortKept s.cp t.cp ∧ PortKept s.bp t.bp ∧
  (s.fre.hold = [] → t = { s with fre := { } }) ∧
  (s.fre.hold ≠ [] → mask.getLsbD 14 = true →
    t = { s with fre := { }, exc := { s.exc with flags := s.exc.flags ||| bit } }) ∧
  ∀ h rest, s.fre.hold = h :: rest → mask.getLsbD 14 = false →
    t.exc =
      { flags := s.exc.flags ||| bit, pend := s.exc.pend ||| bit, summary := true
        capture := some (match s.exc.capture with
          | some k => { k with further := true }
          | none => { raise := purgedRaise s.ilk.mode h, further := !rest.isEmpty }) } ∧
    t.outs.alarm = true ∧
    t.cp = (if called ∧ s.active.param 4 = 0 then (queuePart s .cp notice).cp else s.cp) ∧
    t.bp = (if called ∧ s.active.param 4 = 1 then (queuePart s .bp notice).bp else s.bp)

/-- The step of SIG. An extraction slot keeps value, freshness, age and writer, and takes its new stale time; a slot whose new
time has passed becomes STALE. A switch slot whose inversion changed is written with its accepted level. A pulse input takes
its new mode, window or divisor. The events of the writes and the STALE slots are delivered (R54, R60, R65), those of the
switches before those of the extraction slots, an order that is the model's choice (log 29). -/
def CommitAtSig (before : Tables) (s t : State) : Prop :=
  let n := s.active
  let lapses := fun i : Fin 32 =>
    n.staleTime i ≠ before.staleTime i ∧ n.staleTime i ≠ 0 ∧ (s.slot i).fresh = .fresh ∧
      (s.slot i).writtenAt + n.staleTime i ≤ s.now
  let value := fun (sw : Fin 6) (level : Bool) => if level = n.inverted sw then (0 : Raw) else 1
  t = { s with sig := t.sig, outbox := t.outbox } ∧
  t.sig.switches = s.sig.switches ∧
  (∀ i : Fin 32, 10 ≤ i.val →
    (n.staleTime i = before.staleTime i → t.slot i = s.slot i) ∧
    (n.staleTime i ≠ before.staleTime i → n.staleTime i = 0 → t.slot i = { s.slot i with staleAt := none }) ∧
    (n.staleTime i ≠ before.staleTime i → n.staleTime i ≠ 0 → (s.slot i).fresh ≠ .fresh → t.slot i = s.slot i) ∧
    (lapses i → t.slot i = { s.slot i with fresh := .stale, staleAt := none }) ∧
    (n.staleTime i ≠ before.staleTime i → n.staleTime i ≠ 0 → (s.slot i).fresh = .fresh →
      s.now < (s.slot i).writtenAt + n.staleTime i →
        t.slot i = { s.slot i with staleAt := some ((s.slot i).writtenAt + n.staleTime i) })) ∧
  (∀ sw : Fin 6,
    (n.inverted sw = before.inverted sw ∨ (s.sig.switches.get sw).accepted = none →
      t.slot (switchSlot sw) = s.slot (switchSlot sw)) ∧
    ∀ level, n.inverted sw ≠ before.inverted sw → (s.sig.switches.get sw).accepted = some level →
      t.slot (switchSlot sw) =
        { value := value sw level, fresh := .fresh, writtenAt := s.now, writer := .line, staleAt := none }) ∧
  (∀ pi : Fin 4,
    let r := s.sig.pulses.get pi
    (n.pulseMode pi ≠ before.pulseMode pi →
      t.slot (pulseSlot pi) = { } ∧
      (n.pulseMode pi = .speed → t.sig.pulses.get pi =
        { count := 0, windowEnd := some (s.now + n.window pi), windowLen := n.window pi, pendingLen := none }) ∧
      (n.pulseMode pi ≠ .speed → t.sig.pulses.get pi = { })) ∧
    (n.pulseMode pi = before.pulseMode pi → t.slot (pulseSlot pi) = s.slot (pulseSlot pi) ∧
      (n.pulseMode pi = .speed → n.window pi ≠ before.window pi →
        t.sig.pulses.get pi = { r with pendingLen := some (n.window pi) }) ∧
      (n.pulseMode pi = .count → n.divisor pi ≠ before.divisor pi → t.sig.pulses.get pi = { r with count := 0 }) ∧
      (n.pulseMode pi = .off ∨ (n.pulseMode pi = .speed ∧ n.window pi = before.window pi) ∨
        (n.pulseMode pi = .count ∧ n.divisor pi = before.divisor pi) → t.sig.pulses.get pi = r))) ∧
  t.outbox = s.outbox ++
    ((List.finRange 6).flatMap fun sw =>
      if n.inverted sw = before.inverted sw then [] else
        match (s.sig.switches.get sw).accepted with
        | none => []
        | some level =>
          let r := s.slot (switchSlot sw)
          slotDeliveries n (.written (switchSlot sw) (value sw level) (if r.fresh = .never then 0 else r.value) r.fresh
            .line)) ++
    ((List.finRange 32).drop 10).flatMap fun i =>
      if lapses i then slotDeliveries n (.stale i (s.slot i).value) else []

/-- The step of TNK: records started again where service or LEVEL slot changed, the others kept with their drawn units within
the new capacity, source and level taken anew and the band set plainly; the supply from its slot; the settings of the valves
kept, the fill valve closed where its conditions fail; with both pump drives held at rest no override and no run-dry timer;
band and supply changes delivered (R133, R135, R145), the bands in the order WATER, FOAM_A, FOAM_B, which is the model's choice
(log 29). -/
def CommitAtTnk (before : Tables) (s t : State) : Prop :=
  let n := s.active
  let m := t.tnk
  let intake := s.roleSlot .intakePressure
  t = { s with tnk := m, outbox := t.outbox,
               outs := { s.outs with tank := m.tankOpen || m.override, fill := m.fillOpen } } ∧
  (∀ k, let r := s.tnk.tank k
    let drawn := if n.inService k then min r.drawn (n.tank k).capacity else r.drawn
    (n.inService k ≠ before.inService k ∨ n.role (tankRole k) ≠ before.role (tankRole k) →
      m.tank k = { source := if n.inService k then .sender else .none }) ∧
    (n.inService k = before.inService k → n.role (tankRole k) = before.role (tankRole k) →
      m.tank k = { r with drawn := drawn, source := (m.tank k).source, level := (m.tank k).level, band := (m.tank k).band } ∧
      (n.inService k = true → r.sender ≠ .failed →
        (m.tank k).source = .sender ∧ (m.tank k).level = filtered r.window) ∧
      (n.inService k = true → r.sender = .failed → (n.tank k).flow ≠ none →
        (m.tank k).source = .estimate ∧ (m.tank k).level = some (BitVec.ofNat 16 (r.base.toNat - drawn))) ∧
      (n.inService k = false ∨ (r.sender = .failed ∧ (n.tank k).flow = none) →
        (m.tank k).source = .none ∧ (m.tank k).level = none) ∧
      (m.tank k).band = bandOf (n.tank k) .unknown (m.tank k).level)) ∧
  (intake.fresh ≠ .fresh → m.supply = .tank) ∧
  (intake.fresh = .fresh →
    (n.param 12 ≤ intake.value.toNat → m.supply = .hydrant) ∧
    (intake.value.toNat < n.param 12 → intake.value.toNat < n.param 13 → m.supply = .tank) ∧
    (intake.value.toNat < n.param 12 → n.param 13 ≤ intake.value.toNat → m.supply = s.tnk.supply)) ∧
  m.tankOpen = s.tnk.tankOpen ∧
  (m.fillOpen = true ↔ s.tnk.fillOpen = true ∧ m.supply = .hydrant ∧
    (m.water.band = .empty ∨ m.water.band = .low ∨ m.water.band = .normal) ∧ m.water.source = .sender) ∧
  m.heldMain = s.tnk.heldMain ∧ m.heldRoll = s.tnk.heldRoll ∧
  (s.tnk.heldMain = .disengaged → s.tnk.heldRoll = .disengaged →
    m.override = false ∧ m.dry = false ∧ m.runDry = none) ∧
  t.outbox = s.outbox ++
    (Tank.all.flatMap fun k =>
      if (s.tnk.tank k).band = (m.tank k).band then []
      else .ilkBandChange k :: if k = .water then [.csuInputDelivery (.waterBand m.water.band)] else []) ++
    (if s.tnk.supply = m.supply then [] else [.ilkSupplyChange, .csuInputDelivery (.supply m.supply)])

/-- The mode that the table of R87 gives, the STOPPED latch being this (R84 to R87). -/
def ModeTabled (s : State) (stopped : Bool) (m : Mode) : Prop :=
  let main := s.drv.main.state ≠ .disengaged
  let roll := s.drv.roll.state ≠ .disengaged
  let parked := stopped = true ∧ (s.roleSlot .parkBrake).fresh = .fresh ∧ (s.roleSlot .parkBrake).value ≠ 0
  let fast := (s.roleSlot .roadSpeed).fresh ≠ .fresh ∨ s.active.param 11 < (s.roleSlot .roadSpeed).value.toNat
  (main → roll → m = .conflict) ∧ (main → ¬roll → parked → m = .pumpStatic) ∧ (main → ¬roll → ¬parked → m = .conflict) ∧
  (¬main → roll → ¬fast → m = .pumpRoll) ∧ (¬main → roll → fast → m = .conflict) ∧ (¬main → ¬roll → parked → m = .parked) ∧
  (¬main → ¬roll → ¬parked → m = .road)

/-- What a taking of ILK delivers of the mode and the terms: the change of mode to CSU, MODE_CONFLICT at an entry to CONFLICT, and
in index order the rises and falls to FRE and DRV (R78, R88, R89). That a TRUE term which the commit makes EMPTY falls is the
model's choice (log 38). -/
def ilkDelivers (before after : IlkRec) : List Instr :=
  (if after.mode = before.mode then [] else .csuInputDelivery (.mode after.mode) ::
    (if after.mode = .conflict then [.exceptionRaise { cls := .modeConflict, mode := .conflict }] else [])) ++
  (List.finRange 24).flatMap fun t =>
    if before.terms.get t ≠ .tt ∧ after.terms.get t = .tt then [.termRiseAtFre t, .permitTermRise t]
    else if before.terms.get t = .tt ∧ after.terms.get t ≠ .tt then [.termFallAtFre t, .permitTermFall t]
    else []

/-- The step of ILK: the latch from the speed slot, the mode by its table, SIGNAL conditions plainly from FRESH slots and else
UNKNOWN, the others from their inputs, then the terms; changes against the results before this step are delivered (R80,
R90), which are those that a band or supply change taken since the activation left, the model's choice (log 41). That TERM
conditions name lower terms is what R189 says of the active set. -/
def CommitAtIlk (s t : State) : Prop :=
  let n := s.active
  let speed := s.roleSlot .roadSpeed
  t = { s with ilk := t.ilk, outbox := s.outbox ++ ilkDelivers s.ilk t.ilk } ∧
  t.ilk.stopped = (decide (speed.fresh = .fresh) && (decide (speed.value.toNat ≤ n.param 9) ||
    (s.ilk.stopped && decide (speed.value.toNat ≤ n.param 9 + n.param 10)))) ∧
  ModeTabled s t.ilk.stopped t.ilk.mode ∧
  (∀ (k : Fin 24) (j : Fin 4) (c : Cond), (n.conds k)[j.val]? = some c →
    let held := (t.ilk.mem.get k).get j
    match c with
    | .signal i rel lo h hi =>
      ((s.slot i).fresh ≠ .fresh → held = .unknown) ∧
      ((s.slot i).fresh = .fresh → held = afterWrite rel lo h hi .unknown (s.slot i).value)
    | .mode set => held = if set.getLsbD (modeCode t.ilk.mode) then .tt else .ff
    | .drive d set => held = if set.getLsbD (driveCode (s.chan d).state) then .tt else .ff
    | .band b set => held =
      if set.getLsbD (bandCode (s.tnk.tank b).band) then .tt
      else if (s.tnk.tank b).band = .unknown then .unknown else .ff
    | .supply v => held = if s.tnk.supply = v then .tt else .ff
    | .term _ => True) ∧
  ((∀ k j : Fin 24, Cond.term j ∈ n.conds k → j < k) → ∀ k, t.ilk.terms.get k = termResult t t.ilk.terms k)

/-- The step of CSU: held inputs and supervision stay; with a mode ROAD or PARKED held the target is the new IDLE_CEIL; a target
below the applied ceiling is applied at once with a ceiling fall, an equal one stops the ramp timer, a higher one starts it
where it is idle (R151, R159). -/
def CommitAtCsu (s t : State) : Prop :=
  let target := targetOf s.active s.csu
  (s.csu.mode = .road ∨ s.csu.mode = .parked → target = s.active.idleCeil) ∧
  (target.toNat < s.csu.applied.toNat →
    t = (s.setCsu { s.csu with target := target, applied := target, ramp := none }).post [.ceilingFall]) ∧
  (target = s.csu.applied → t = s.setCsu { s.csu with target := target, ramp := none }) ∧
  (s.csu.applied.toNat < target.toNat →
    t = s.setCsu { s.csu with target := target, ramp := some (s.csu.ramp.getD (s.now + s.active.param 19)) })

/-! Invariants. -/

/-- At most one of MAIN and ROLL is away from DISENGAGED (R100). -/
def DrivesExclusive (s : State) : Prop := s.drv.main.state = .disengaged ∨ s.drv.roll.state = .disengaged

/-- The output lines follow the states that drive them (R95, R137, R140, R166). -/
def LinesFollow (s : State) : Prop :=
  s.outs.main = lineOn s.drv.main.state ∧ s.outs.roll = lineOn s.drv.roll.state ∧ s.outs.aux = lineOn s.drv.aux.state
    ∧ s.outs.tank = (s.tnk.tankOpen || overrideOf s.tnk) ∧ s.outs.fill = s.tnk.fillOpen ∧ s.outs.alarm = s.exc.summary

/-- The applied ceiling does not exceed the target (R151). -/
def CeilingBound (s : State) : Prop := s.csu.applied.toNat ≤ s.csu.target.toNat

/-- Every pending class has its flag set and is unmasked, and the summary is the one the flags and the mask give (R166,
R167). -/
def ExceptionBits (s : State) : Prop :=
  s.exc.pend &&& ~~~s.exc.flags = 0 ∧ s.exc.pend &&& s.active.mask = 0
    ∧ s.exc.summary = summaryOf s.exc.flags s.active.mask

/-- The fill valve is commanded OPEN only with supply HYDRANT, WATER band EMPTY, LOW or NORMAL, and WATER source SENDER
(R140). -/
def FillGuard (s : State) : Prop := s.tnk.fillOpen = true → fillAllowed s.tnk = true

/-- One port's queue and count (R5, R11, R12): shares within bounds, the state that of the count, an OFF port with an empty
queue and a running recovery timer, and no frame waiting while none is in flight. -/
def PortSound (r : PortRec) : Prop :=
  r.forwardedDepth ≤ 14 ∧ r.partDepth ≤ 2 ∧ r.count ≤ 256 ∧ r.state = countState r.count
    ∧ (r.state = .off ↔ r.recovery.isSome = true) ∧ (r.inFlight = none → r.waiting = [])
    ∧ (r.state = .off → r.inFlight = none)

/-- Both ports are sound. -/
def PortsSound (s : State) : Prop := PortSound s.cp ∧ PortSound s.bp

/-- The Hold Buffer holds 0 to 8 frames, no two with the same identifier (R34). -/
def HoldBound (s : State) : Prop := s.fre.hold.length ≤ 8 ∧ (s.fre.hold.map fun h => h.frame.ident).Nodup

/-- The active tables pass every check of a commit and contain no REJECTED entry (R189). -/
def ActiveSound (s : State) : Prop := s.active.sound = true

/-- A port as every reset leaves it (R14). -/
def PortReset (r : PortRec) : Prop :=
  r.state = .active ∧ r.count = 0 ∧ r.waiting = [] ∧ r.inFlight = none ∧ r.recovery = none

/-- t is s after a reset of any kind: every block at the values its chapter gives for every reset, every delivery lost, MGT's
shadow state CLEAN, no record marked, no SAVE in flight, the store kept; the levels of the lines are the environment's. That
the active set, the ceilings and the fallback state are kept until start-up sets them, with the shadow set equal to the active
set, that every level source is NONE until then, and that the ports stand at 250 kbit/s before the release, is the model's
choice (log 7); that the clock is kept is too (log 22). -/
def ResetDone (s t : State) : Prop :=
  t.outs = { } ∧ t.cp = { since := t.cp.since } ∧ t.bp = { since := t.bp.since } ∧ t.fre = { } ∧ t.drv = { } ∧ t.tnk = { }
    ∧ t.exc = { } ∧ t.outbox = []
    ∧ (∀ i, t.slot i = { }) ∧ (∀ pi, t.sig.pulses.get pi = { })
    ∧ (∀ sw, t.sig.switches.get sw = { line := (s.sig.switches.get sw).line })
    ∧ t.ilk.mode = .road ∧ t.ilk.stopped = false ∧ (∀ k j, (t.ilk.mem.get k).get j = .unknown)
    ∧ (∀ k, t.ilk.terms.get k = if isValid (s.active.itt.get k) then .unknown else .ff)
    ∧ t.csu = { target := s.csu.target, applied := s.csu.applied } ∧ t.mgt = { shadow := s.active }
    ∧ t.active = s.active ∧ t.sys.store = s.sys.store ∧ t.sys.fallback = s.sys.fallback
    ∧ t.now = s.now ∧ t.pending = s.pending

/-- While the supply is out of its range or the reset line is low, the part is held in reset (R194, R197). -/
def HeldInReset (s : State) : Prop := s.sys.powered = false ∨ s.sys.resetLow = true → s.sys.phase = .reset

/-- Outside RUN every output line is off, the ports hold their reset values, no exception flag is set, nothing is held, every
channel is DISENGAGED and no valve is commanded OPEN (R2, R14, R41, R117, R146, R177, R194, R197). -/
def QuietOutsideRun (s : State) : Prop :=
  s.sys.phase ≠ .run →
    s.outs = { } ∧ PortReset s.cp ∧ PortReset s.bp ∧ s.exc = { } ∧ s.fre = { } ∧ s.drv = { } ∧ s.tnk = { }

/-! The beginning of RUN (R198): s is the state in START, t the state in RUN, whose active set start-up has loaded. -/

/-- TNK's records at the beginning of RUN: every tank started again, its source SENDER where it is in service; the supply, the
valves, the override and the timers stay as the reset left them (R146). -/
def TnkBeginsRun (s t : State) : Prop :=
  t.tnk = { s.tnk with water := t.tnk.water, foamA := t.tnk.foamA, foamB := t.tnk.foamB } ∧
  ∀ k, t.tnk.tank k = { source := if t.active.inService k then .sender else .none }

/-- ILK's recomputation at the beginning of RUN: SIGNAL conditions UNKNOWN, the others from their inputs, every band UNKNOWN, then
every term as its conditions give it; mode and latch stay (R81). -/
def IlkBeginsRun (s t : State) : Prop :=
  t.ilk.mode = s.ilk.mode ∧ t.ilk.stopped = s.ilk.stopped ∧
  (∀ (k : Fin 24) (j : Fin 4) (c : Cond), (t.active.conds k)[j.val]? = some c →
    let held := (t.ilk.mem.get k).get j
    match c with
    | .signal _ _ _ _ _ => held = .unknown
    | .mode set => held = if set.getLsbD (modeCode s.ilk.mode) then .tt else .ff
    | .drive d set => held = if set.getLsbD (driveCode (s.chan d).state) then .tt else .ff
    | .band _ set => held = if set.getLsbD (bandCode .unknown) then .tt else .unknown
    | .supply v => held = if s.tnk.supply = v then .tt else .ff
    | .term _ => True) ∧
  ∀ k, t.ilk.terms.get k = termResult t t.ilk.terms k

/-- The rises of every term that is TRUE, in index order, to FRE and DRV (R78, R81). -/
def termRises (terms : Vector Tri 24) : List Instr :=
  (List.finRange 24).flatMap fun k => if terms.get k = .tt then [.termRiseAtFre k, .permitTermRise k] else []

end Sys2Proof.Safety
end

