-- ==== Sys2Proof/Certificates/Slice0/Obligations.lean ====
section
/-! DEFINITION. The statements for the provers. -/

open Sys2Proof Sys2Proof.Machine Sys2Proof.Safety

/-! The queue of commands. -/

/-- A step of a state with a command at the front of its queue is that command's effect on the state with the queue's
rest. -/
def Obligations.StepRunsFrontCommand : Prop :=
  ∀ (c : Instr) (s : State), step { s with pending := c :: s.pending } = exec c s

/-- With no command waiting a step takes the oldest delivery, and with none waiting either one millisecond passes (the
model's choice, log 2). -/
def Obligations.StepWithEmptyQueue : Prop :=
  ∀ s : State, s.pending = [] →
    (∀ d ds, s.outbox = d :: ds → step s = exec d s) ∧ (s.outbox = [] → step s = .next { s with now := s.now + 1 })

/-- Every command answers a next state, whatever the state, and leaves the queue as it is. -/
def Obligations.EveryCommandCompletes : Prop :=
  ∀ (c : Instr) (s : State), ∃ t, exec c s = .next t ∧ t.pending = s.pending

/-- In reset and in START nothing reaches the blocks: only line levels, the supply, the reset line and the store read act. A
remote frame, and a frame in START, are discarded; a port in OFF receives nothing, whatever the frame. That the command of a
frame in START has no effect in RUN either is the model's choice (log 4), and so is that a frame begun no later than the
port's reception began or resumed is none to it (R13, log 34). -/
def Obligations.CommandsWithoutEffect : Prop :=
  (∀ (c : Instr) (s : State), s.sys.phase ≠ .run → actsOutsideRun c = false → exec c s = .next s) ∧
  ((∀ p ext id s, exec (.remoteFrame p ext id) s = .next s) ∧
   (∀ p f s, exec (.startFrameDiscard p f) s = .next s) ∧
   ∀ (a : Arrival) (s : State), (s.port a.port).state = .off ∨ a.begun ≤ (s.port a.port).since →
     (∀ id data, exec (.standardFrame a id data) s = .next s) ∧
     (∀ id data, exec (.frameHandledByFre a id data) s = .next s) ∧
     (∀ data, exec (.badRequestFrame a data) s = .next s) ∧
     ∀ code (r : Request), r.toArrival = a → exec (requestInstr code r) s = .next s)

/-! Ports: reception. -/

/-- A standard-format frame received in RUN takes UNMATCHED_ACTION: queued unchanged on the other port, without entry index
and mark, for PASS; otherwise discarded, and nothing changes. -/
def Obligations.StandardFrameTakesUnmatchedAction : Prop :=
  ∀ (s : State) (a : Arrival) (id : BitVec 11) (data : List Byte), Receiving s a.port a.begun →
    exec (.standardFrame a id data) s =
      .next (if s.active.param 5 = 0 then
          queueForwarded s a.port.other { frame := stdFrame id data, arrival := a.port, entry := none, mark := false }
        else s) ∧
    (data.length ≤ 8 → stdFrame id data = { ext := false, ident := id.setWidth 29, data := data })

/-- An extended-format frame received in RUN goes to MGT where its identifier is MGMT_BASE and MGMT_PORTS allows its port, and
to FRE in every other case. A request is the frame with identifier MGMT_BASE and the request's 8 bytes. That data bytes beyond
the eighth are ignored is the model's choice (log 23). -/
def Obligations.ExtendedFrameGoesToMgtOrFre : Prop :=
  (∀ (s : State) (a : Arrival) (id : Ident) (data : List Byte), Receiving s a.port a.begun →
     exec (.frameHandledByFre a id data) s =
         .next (if id = s.active.mgmtBase ∧
             (s.active.param 3 = 2 ∨ (s.active.param 3 = 0 ∧ a.port = .cp) ∨ (s.active.param 3 = 1 ∧ a.port = .bp)) then
           mgtFrame s a (data.take 8) else freTake s a (extFrame id data)) ∧
     extFrame id data = { ext := true, ident := id, data := data.take 8 } ∧
     exec (.badRequestFrame a data) s = exec (.frameHandledByFre a s.active.mgmtBase data) s) ∧
  (∀ (code : ReqCode) (r : Request) (s : State),
     exec (requestInstr code r) s =
       exec (.frameHandledByFre r.toArrival s.active.mgmtBase (requestBytes r code)) s ∧
     requestBytes r code = [code.byte, r.tag, r.b2, r.b3, r.b4, r.b5, r.b6, r.b7])

/-! Ports: transmit queues. -/

/-- A request to queue a forwarded frame, its four cases in order: port OFF, coalescing, share full, added. Coalescing replaces,
in its place, the data and entry index of the oldest waiting forwarded frame with the mark and the same identifier and format;
it finds none exactly where no such frame waits. -/
def Obligations.QueueForwardedCases : Prop :=
  (∀ (s : State) (p : Port) (q : ForwardRequest), Running s →
     let out := exec (.queueForwardedFrame p q) s
     let lost := fun why => s.raise
       { cls := .txDiscard, mode := s.ilk.mode, port := some q.arrival, frame := some q.frame, entry := q.entry,
         reason := some why }
     ((s.port p).state = .off → out = .next (lost .portOff)) ∧
     ((s.port p).state ≠ .off →
       (∀ ws, q.mark = true → coalesce q (s.port p).waiting = some ws →
         out = .next (s.setPort p { s.port p with waiting := ws })) ∧
       (q.mark = false ∨ coalesce q (s.port p).waiting = none →
         (14 ≤ (s.port p).forwardedDepth → out = .next (lost .full)) ∧
         ((s.port p).forwardedDepth < 14 →
           out = .next (s.setPort p ((s.port p).add
             { frame := q.frame, kind := .forwarded q.arrival q.entry (s.now + s.active.param 6), mark := q.mark })))))) ∧
  (∀ (q : ForwardRequest) (l l' : List QueuedFrame), coalesce q l = some l' →
     ∃ before w after arrival entry deadline, l = before ++ w :: after ∧
       w.kind = .forwarded arrival entry deadline ∧ w.mark = true ∧ w.frame.ident = q.frame.ident ∧
       w.frame.ext = q.frame.ext ∧
       l' = before ++ { w with frame := q.frame, kind := .forwarded arrival q.entry deadline } :: after ∧
       ∀ x ∈ before, x.mark = true → x.frame.ident = q.frame.ident → x.frame.ext = q.frame.ext → x.kind = .part) ∧
  (∀ (q : ForwardRequest) (l : List QueuedFrame), coalesce q l = none ↔
     ¬∃ w ∈ l, ∃ arrival entry deadline, w.kind = .forwarded arrival entry deadline ∧ w.mark = true ∧
       w.frame.ident = q.frame.ident ∧ w.frame.ext = q.frame.ext)

/-- A request to queue a part-originated frame: lost on a port in OFF or with 2 queued, else added. Both shares count the frame
in flight with those that wait. -/
def Obligations.QueuePartCases : Prop :=
  (∀ r : PortRec,
    let all := r.inFlight.toList ++ r.waiting
    r.partDepth = all.countP (fun q => decide (q.kind = .part)) ∧ r.forwardedDepth + r.partDepth = all.length) ∧
  ∀ (s : State) (p : Port) (f : Frame), Running s →
    let out := exec (.queuePartOriginatedFrame p f) s
    ((s.port p).state = .off ∨ 2 ≤ (s.port p).partDepth → out = .next s) ∧
    ((s.port p).state ≠ .off → (s.port p).partDepth < 2 →
      out = .next (s.setPort p ((s.port p).add { frame := f, kind := .part, mark := false })))

/-- The arbiter takes the waiting frame that ranks first, of equal ranks the oldest, and leaves the others in order; a frame
joins the queue as its newest. Ranks: extended identifiers by their 29 bits, standard ones by their 11 bits, a standard
identifier against the eleven highest bits of an extended one, the lower first and the standard frame first on equality. -/
def Obligations.ArbiterTakesFirstRanked : Prop :=
  ((∀ (r : PortRec) (q : QueuedFrame), r.add q = PortRec.arbitrate { r with waiting := r.waiting ++ [q] }) ∧
   (∀ r : PortRec, r.state = .off ∨ r.inFlight ≠ none ∨ r.waiting = [] → r.arbitrate = r) ∧
   ∀ r : PortRec, r.state ≠ .off → r.inFlight = none → r.waiting ≠ [] →
     ∃ before q after, r.waiting = before ++ q :: after ∧
       r.arbitrate = { r with waiting := before ++ after, inFlight := some q } ∧
       (∀ x ∈ before, rankKey q.frame < rankKey x.frame) ∧ ∀ x ∈ after, rankKey q.frame ≤ rankKey x.frame) ∧
  (∀ f g : Frame,
     (f.ext = g.ext → (rankKey f ≤ rankKey g ↔ f.ident.toNat ≤ g.ident.toNat)) ∧
     (f.ext = false → g.ext = true →
       (rankKey f < rankKey g ↔ f.ident.toNat ≤ g.ident.toNat / 262144) ∧
       (rankKey g < rankKey f ↔ g.ident.toNat / 262144 < f.ident.toNat)))

/-- A successful attempt: the frame leaves the queue, the count falls by 1 unless 0, the state follows the count, the arbiter
acts. A failed attempt: the count rises by 8. At 256 the port enters OFF: queue flushed, recovery timer started, PORT_OFF
raised. Below, an entry to WARN raises PORT_WARN; then a forwarded frame past its deadline is removed with TX_DISCARD STALE, and
any other stays in flight. That a deadline has passed at the very time of the deadline is the model's choice (log 24). -/
def Obligations.TransmitAttemptsEnd : Prop :=
  (∀ (s : State) (p : Port), Running s → PortSound (s.port p) → (s.port p).inFlight ≠ none →
     exec (.transmitAttemptEnd p true) s =
       .next (s.setPort p (PortRec.arbitrate
         { s.port p with
           count := (s.port p).count - 1, state := if (s.port p).count - 1 < 96 then .active else .warn,
           inFlight := none }))) ∧
  (∀ (s : State) (p : Port) (q : QueuedFrame), Running s → PortSound (s.port p) → (s.port p).inFlight = some q →
     let r := s.port p
     let out := exec (.transmitAttemptEnd p false) s
     (256 ≤ r.count + 8 →
       out = .next ((s.setPort p
         { r with state := .off, count := 256, waiting := [], inFlight := none,
                  recovery := some (s.now + s.active.param 7) }).raise
         { cls := .portOff, mode := s.ilk.mode, port := some p })) ∧
     (r.count + 8 < 256 →
       let r1 : PortRec := { r with count := r.count + 8, state := if r.count + 8 < 96 then .active else .warn }
       let s1 := if r.state = .active ∧ 96 ≤ r.count + 8 then
           (s.setPort p r1).raise { cls := .portWarn, mode := s.ilk.mode, port := some p }
         else s.setPort p r1
       (∀ arrival entry deadline, q.kind = .forwarded arrival entry deadline → deadline ≤ s.now →
         out = .next ((s1.setPort p (PortRec.arbitrate { r1 with inFlight := none })).raise
           { cls := .txDiscard, mode := s.ilk.mode, port := some arrival, frame := some q.frame, entry := entry,
             reason := some .stale })) ∧
       (q.kind = .part → out = .next s1) ∧
       (∀ arrival entry deadline, q.kind = .forwarded arrival entry deadline → s.now < deadline → out = .next s1)))

/-- The age deadline of a waiting forwarded frame: the frame leaves the queue, TX_DISCARD STALE is raised. The recovery timer of
a port in OFF: the port becomes ACTIVE with count 0, receives the frames that begin after the expiry, and nothing is raised. The
model's choices: an expiry command brings the clock up to the time of its timer, and never back (log 3); a frame begun in the
very millisecond of the expiry did not begin after it (log 34). -/
def Obligations.PortTimersExpire : Prop :=
  (∀ (s : State) (t : Nat), s.clock t = { s with now := max s.now t }) ∧
  (∀ (s : State) (p : Port) (i : Nat) (q : QueuedFrame) (arrival : Port) (entry : Option (Fin 96)) (deadline : Nat),
     Running s → (s.port p).waiting[i]? = some q → q.kind = .forwarded arrival entry deadline →
       exec (.ageDeadlineExpiry p i) s =
         .next (((s.clock deadline).setPort p
           (PortRec.arbitrate { s.port p with waiting := (s.port p).waiting.eraseIdx i })).raise
             { cls := .txDiscard, mode := s.ilk.mode, port := some arrival, frame := some q.frame, entry := entry,
               reason := some .stale })) ∧
  (∀ (s : State) (p : Port) (t : Nat), Running s → (s.port p).state = .off → (s.port p).recovery = some t →
     exec (.recoveryTimerExpiry p) s =
       .next ((s.clock t).setPort p
         { s.port p with state := .active, count := 0, recovery := none, since := max s.now t }))

/-! Management. -/

/-- A request received in RUN is taken by MGT where MGMT_PORTS allows its port, and is a frame to FRE otherwise. A frame with
MGMT_BASE that is short or whose code names no request is answered BAD_REQUEST, its first two bytes echoed, and has no other
effect. A response is a part-originated frame for the arrival port: identifier MGMT_BASE + 1, code, tag, result, five data
bytes; the codes of the requests and of the results. Privilege is SERVICE exactly while slot 5 is FRESH with value 1. -/
def Obligations.RequestsAndResponses : Prop :=
  ((∀ (code : ReqCode) (r : Request) (s : State), Receiving s r.port r.begun →
     exec (requestInstr code r) s =
       .next (if s.active.mgmtAllows r.port = true then mgtTake code r s
         else freTake s r.toArrival (extFrame s.active.mgmtBase (requestBytes r code)))) ∧
   (∀ (s : State) (p : Port), s.active.mgmtAllows p = true ↔
     s.active.param 3 = 2 ∨ (s.active.param 3 = 0 ∧ p = .cp) ∨ (s.active.param 3 = 1 ∧ p = .bp)) ∧
   (∀ s : State, s.service = true ↔ (s.slot 5).fresh = .fresh ∧ (s.slot 5).value = 1) ∧
   ∀ (s : State) (a : Arrival) (data : List Byte), ToMgt s a.port a.begun →
     (data.length < 8 ∨ (data.getD 0 0).toNat = 0 ∨ 16 < (data.getD 0 0).toNat) →
       exec (.badRequestFrame a data) s = .next (respond s a.port (data.getD 0 0) (data.getD 1 0) .badRequest [])) ∧
  ([ReqCode.readStatus, .readSignal, .readActive, .readShadow, .writeShadow, .revertShadow, .commit, .save, .readEvent,
      .readCapture, .clearExceptions, .clearCapture, .driveCommand, .valveCommand, .readResetCause, .resetPart].map ReqCode.byte =
     [0x01, 0x02, 0x03, 0x04, 0x05, 0x06, 0x07, 0x08, 0x09, 0x0A, 0x0B, 0x0C, 0x0D, 0x0E, 0x0F, 0x10] ∧
   [Result.ok, .badRequest, .badIndex, .refusedPrivilege, .refusedMode, .busy, .rejected, .storeError, .refused].map
     Result.byte = [0, 1, 2, 3, 4, 5, 6, 7, 8]) ∧
  (∀ (s : State) (code : ReqCode) (r : Request) (res : Result) (d : List Byte),
     reply s code r res d = respond s r.port code.byte r.tag res d) ∧
  (∀ (s : State) (p : Port) (code tag : Byte) (res : Result) (d : List Byte),
     s.active.mgmtBase.toNat + 1 < 536870912 →
       ∃ id : Ident, id.toNat = s.active.mgmtBase.toNat + 1 ∧
         respond s p code tag res d =
           queuePart s p
             { ext := true, ident := id,
               data := [code, tag, res.byte, d.getD 0 0, d.getD 1 0, d.getD 2 0, d.getD 3 0, d.getD 4 0] })

/-- READ_STATUS answers the values of its selector and BAD_INDEX above 9; READ_SIGNAL answers value, age and writer of its
slot and BAD_INDEX above 31. Neither changes anything. Said byte by byte: the codes; a drive timer's time left; the last
outcome's kind and reason or cause; the ramp time left in 4 ms units, rounded up, 1 or more while it runs; a port's count, state
and depths; the age, 65535 for a NEVER slot and else the time since the last write, held at 65535; the writer, an entry, 96 LINE
or 127 NONE, plus 128 when STALE. The model's choices: the bytes of a commit outcome without record, and of an absent level, are
free (log 15); the age of a STALE slot goes on (log 21). -/
def Obligations.StatusAndSignalReads : Prop :=
  ((∀ n, lowByte n = BitVec.ofNat 8 n ∧ highByte n = BitVec.ofNat 8 (n / 256)) ∧
   (∀ fs, packByte fs = BitVec.ofNat 8 (fs.map fun f => f.1 * 2 ^ f.2).sum) ∧ flagNat true = 1 ∧ flagNat false = 0 ∧
   [Mode.road, .parked, .pumpStatic, .pumpRoll, .conflict].map modeCode = [0, 1, 2, 3, 4] ∧
   [DriveState.disengaged, .shifting, .verifying, .engaged, .releasing, .faulted].map driveCode = [0, 1, 2, 3, 4, 5] ∧
   [Band.empty, .low, .normal, .full, .unknown].map bandCode = [0, 1, 2, 3, 4] ∧
   [Channel.main, .roll, .aux].map channelIndex = [0, 1, 2] ∧ [Tank.water, .foamA, .foamB].map tankIndex = [0, 1, 2]) ∧
  ∀ (r : Request) (s : State), ToMgt s r.port r.begun →
    (9 < r.b2.toNat → exec (.readStatus r) s = .next (reply s .readStatus r .badIndex [])) ∧
    (r.b2 = 0 → ∃ table index : Byte,
      exec (.readStatus r) s = .next (reply s.drawn .readStatus r .ok
        [packByte [(modeCode s.ilk.mode, 0), (if s.tnk.supply = .hydrant then 1 else 0, 3),
            (match s.csu.sup with | .disarmed => 0 | .armed => 1 | .lapsed => 2, 4), (flagNat s.exc.summary, 6),
            (flagNat s.service, 7)],
          packByte [(flagNat s.mgt.modified, 0), (if s.mgt.save = none then 0 else 1, 1),
            (match s.mgt.lastCommit with | .none => 0 | .ok => 1 | .rejected _ _ => 2, 2), (flagNat s.sys.fallback, 4)],
          table, index]) ∧
      ∀ tb ix, s.mgt.lastCommit = .rejected tb ix → table = lowByte tb ∧ index = lowByte ix) ∧
    (∀ c : Channel, r.b2.toNat = 1 + (channelIndex c).val →
      let left := match (s.chan c).timer with | none => 0 | some (_, t) => t - s.now
      exec (.readStatus r) s = .next (reply s.drawn .readStatus r .ok
        [lowByte (driveCode (s.chan c).state),
          packByte [
            (match (s.chan c).timer with | none => 0 | some (.settle, _) => 1 | some (.verify, _) => 2 | some (.release, _) => 3, 0),
            (match (s.chan c).origin with | none => 0 | some .signal => 1 | some .management => 2, 2)],
          lowByte left, highByte left, lowByte (outcomeCode (s.chan c).outcome)])) ∧
    (∀ k : Tank, r.b2.toNat = 4 + (tankIndex k).val →
      let n := s.tnk.tank k
      ∃ low high : Byte,
        exec (.readStatus r) s = .next (reply s.drawn .readStatus r .ok
          [low, high,
            packByte [(bandCode n.band, 0), (match n.sender with | .good => 0 | .suspect => 1 | .failed => 2, 3),
              (match n.source with | .sender => 0 | .estimate => 1 | .none => 2, 5), (if n.level = none then 0 else 1, 7)],
            packByte ([(n.strikes % 4, 0), (n.agree % 4, 2)] ++
              if k = .water then
                [(flagNat s.tnk.tankOpen, 4), (flagNat s.tnk.override, 5), (flagNat s.tnk.fillOpen, 6),
                  (if s.tnk.runDry = none then 0 else 1, 7)]
              else [])]) ∧
        ∀ v, n.level = some v → low = lowByte v.toNat ∧ high = highByte v.toNat) ∧
    (r.b2 = 7 → exec (.readStatus r) s = .next (reply s.drawn .readStatus r .ok
      [lowByte s.csu.target.toNat, highByte s.csu.target.toNat, lowByte s.csu.applied.toNat, highByte s.csu.applied.toNat,
        lowByte (match s.csu.ramp with | none => 0 | some t => max 1 ((t - s.now + 3) / 4))])) ∧
    (r.b2 = 8 →
      let frames := fun p : PortRec => p.inFlight.toList ++ p.waiting
      let forwarded := fun p => (frames p).countP QueuedFrame.isForwarded
      let part := fun p => (frames p).countP fun q => !q.isForwarded
      let state := fun p : PortRec => packByte [(p.count / 256 % 2, 0),
        (match p.state with | .active => 0 | .warn => 1 | .off => 2, 1), (part p % 4, 3)]
      exec (.readStatus r) s = .next (reply s.drawn .readStatus r .ok
        [lowByte s.cp.count, state s.cp, packByte [(forwarded s.cp % 16, 0), (forwarded s.bp % 16, 4)],
          lowByte s.bp.count, state s.bp])) ∧
    (r.b2 = 9 → exec (.readStatus r) s = .next (reply s.drawn .readStatus r .ok
      [lowByte s.fre.hold.length, lowByte (s.fre.reissue.toList.filter Option.isSome).length])) ∧
    (31 < r.b2.toNat → exec (.readSignal r) s = .next (reply s .readSignal r .badIndex [])) ∧
    ∀ i : Fin 32, r.b2.toNat = i.val →
      let x := s.slot i
      let age := if x.fresh = .never then 65535 else min (s.now - x.writtenAt) 65535
      let writer := match x.writer with | .entry e => e.val | .line => 96 | .none => 127
      exec (.readSignal r) s = .next (reply s .readSignal r .ok
        [lowByte x.value.toNat, highByte x.value.toNat, lowByte age, highByte age,
          lowByte (writer + if x.fresh = .stale then 128 else 0)])

/-- READ_ACTIVE and READ_SHADOW answer the four bytes of the part they name, READ_SHADOW with the rejection mark of an untagged
record behind them, and BAD_INDEX where there is no such part. They change nothing. -/
def Obligations.TableReads : Prop :=
  ∀ (r : Request) (s : State), ToMgt s r.port r.begun →
    let tb := r.b2.toNat / 16
    let ix := r.b3.toNat
    let pt := r.b2.toNat % 16
    (¬partExists tb ix pt →
      exec (.readActive r) s = .next (reply s .readActive r .badIndex []) ∧
      exec (.readShadow r) s = .next (reply s .readShadow r .badIndex [])) ∧
    (partExists tb ix pt → ∃ va vs : Image4,
      s.active.readPart tb ix pt = some va ∧ s.mgt.shadow.readPart tb ix pt = some vs ∧
      exec (.readActive r) s = .next (reply s .readActive r .ok (bytesOf 4 va)) ∧
      exec (.readShadow r) s =
        .next (reply s .readShadow r .ok (bytesOf 4 vs ++ [lowByte (flagNat (s.mgt.mark tb ix))])))

/-- WRITE_SHADOW and REVERT_SHADOW: their refusals in order, and their effects on the shadow set alone. Where an operand error
of each kind is present, which of the two is answered is free (log 17). A part that exists can be written; it then reads as
written, and every other part of every record as before. -/
def Obligations.ShadowChanges : Prop :=
  (∀ (r : Request) (s : State), ToMgt s r.port r.begun →
     let tb := r.b2.toNat / 16
     let ix := r.b3.toNat
     let pt := r.b2.toNat % 16
     let tagBad := (tb ≤ 2 ∨ tb = 5 ∨ tb = 6) ∧ pt = 0 ∧ 1 < r.b4.toNat
     let out := exec (.writeShadow r) s
     (¬partExists tb ix pt → ¬tagBad → out = .next (reply s .writeShadow r .badIndex [])) ∧
     (partExists tb ix pt → tagBad → out = .next (reply s .writeShadow r .badRequest [])) ∧
     (¬partExists tb ix pt → tagBad → ∃ res, (res = .badIndex ∨ res = .badRequest) ∧
       out = .next (reply s .writeShadow r res [])) ∧
     (partExists tb ix pt → ¬tagBad → s.service = false →
       out = .next (reply s .writeShadow r .refusedPrivilege [])) ∧
     (partExists tb ix pt → ¬tagBad → s.service = true → ∃ t,
       s.mgt.shadow.writePart tb ix pt (r.b7 ++ r.b6 ++ r.b5 ++ r.b4) = some t ∧
       out = .next (reply (s.setMgt { s.mgt.unmark tb ix with shadow := t, modified := true }) .writeShadow r .ok [])) ∧
     (s.service = false → exec (.revertShadow r) s = .next (reply s .revertShadow r .refusedPrivilege [])) ∧
     (s.service = true → exec (.revertShadow r) s =
       .next (reply (s.setMgt { s.mgt with
         shadow := s.active, roleMarks := Vector.replicate 11 false, slotMarks := Vector.replicate 32 false,
         paramMarks := Vector.replicate 24 false, modified := false }) .revertShadow r .ok []))) ∧
  (∀ (t : Tables) (tb ix pt : Nat) (v : Image4),
     ((t.writePart tb ix pt v).isSome = true ↔ partExists tb ix pt) ∧
     ∀ u, t.writePart tb ix pt v = some u →
       u.readPart tb ix pt = some v ∧
       ∀ tb' ix' pt', (tb', ix', pt') ≠ (tb, ix, pt) → u.readPart tb' ix' pt' = t.readPart tb' ix' pt')

/-- COMMIT refused or failed. The refusals change nothing. A failed COMMIT marks the failing records of the shadow set and keeps
the outcome; the active set and every block stay. MAIN and ROLL are asked for too (log 10). Then the checks, table by table:
which records fail; that they are listed by table and index; the tags after a COMMIT; and that tables are sound exactly where
none fails and none is tagged REJECTED. The model's choices: PASS and DROP entries are not asked for their gate term (log
35); an undefined tag fails (log 31); bits 29 to 31 of MGMT_BASE are not judged, so MGMT_BASE never fails (log 18). -/
def Obligations.CommitRefusedOrFailed : Prop :=
  (∀ (r : Request) (s : State), ToMgt s r.port r.begun →
    let atRest := s.drv.main.state = .disengaged ∧ s.drv.roll.state = .disengaged ∧
      (s.drv.aux.state = .disengaged ∨ s.drv.aux.state = .faulted)
    let allowed := s.sys.fallback = true ∨ (s.ilk.mode = .parked ∧ atRest)
    let out := exec (.commit r) s
    (s.service = false → out = .next (reply s .commit r .refusedPrivilege [])) ∧
    (s.service = true → s.mgt.save ≠ none → out = .next (reply s .commit r .busy [])) ∧
    (s.service = true → s.mgt.save = none → ¬allowed → out = .next (reply s .commit r .refusedMode [])) ∧
    (s.service = true → s.mgt.save = none → allowed → ∀ tb ix rest, s.mgt.shadow.failing = (tb, ix) :: rest →
      out = .next (reply (s.setMgt { s.mgt with
          shadow := s.mgt.shadow.retagged ((tb, ix) :: rest)
          roleMarks := Vector.ofFn fun i => ((tb, ix) :: rest).contains (3, i.val)
          slotMarks := Vector.ofFn fun i => ((tb, ix) :: rest).contains (4, i.val)
          paramMarks := Vector.ofFn fun i => ((tb, ix) :: rest).contains (7, i.val)
          lastCommit := .rejected tb ix })
        .commit r .rejected [lowByte tb, lowByte ix, lowByte (rest.length + 1)]))) ∧
  (∀ t : Tables,
    let fails := fun tb ix : Nat => (tb, ix) ∈ t.failing
    let live := fun img : Image20 => tagOf img = .valid ∨ tagOf img = .rejected
    let judged := fun (img : Image20) (ok : Prop) => tagOf img = .undefined ∨ (live img ∧ ¬ok)
    let namesTerm := fun o : Option (Fin 24) => ∃ j, o = some j ∧ live (t.itt.get j) ∧ ¬fails 2 j.val
    (∀ e : Fin 96, let img := t.frt.get e
      fails 0 e.val ↔ judged img
        (field img 8 2 ≠ 3 ∧ byteOf img 14 ≤ 2 ∧
          (frtAction img = .gate ∨ frtAction img = .hold → namesTerm (frtTerm img)) ∧
          (∀ k, frtOpen img = some k ∨ frtClosed img = some k → live (t.rtt.get k) ∧ ¬fails 1 k.val) ∧
          (∀ x ∈ frtExtractions img, 10 ≤ x.slot.val ∧ x.start + x.len ≤ 64) ∧
          (frtAction img = .hold → 1 ≤ byteOf img 3))) ∧
    (∀ k : Fin 16, let img := t.rtt.get k
      fails 1 k.val ↔ judged img
        ((∀ x ∈ rttPatches img, x.start + x.len ≤ 64) ∧
          (rttPatches img).Pairwise (fun x y => x.start + x.len ≤ y.start ∨ y.start + y.len ≤ x.start) ∧
          (∀ id, rttReplacement img = some id → id.toNat ≠ t.mgmtBase.toNat ∧ id.toNat ≠ t.mgmtBase.toNat + 1 ∧
            id.toNat ≠ t.mgmtBase.toNat + 2) ∧
          (rttReissue img = true → (t.rtt.toList.countP fun x =>
            (tagOf x == .valid || tagOf x == .rejected) && rttReissue x) ≤ 4))) ∧
    (∀ i : Fin 24, let img := t.itt.get i
      fails 2 i.val ↔ judged img (∃ cs, ittParse img = some cs ∧ ∀ c ∈ cs, match c with
        | .signal _ rel lo _ hi => rel = .inside → lo.toNat ≤ hi.toNat
        | .mode set => set ≠ 0
        | .drive _ set => set ≠ 0
        | .band _ set => set ≠ 0
        | .supply _ => True
        | .term j => j < i ∧ live (t.itt.get j) ∧ ¬fails 2 j.val)) ∧
    (∀ i : Fin 11, fails 3 i.val ↔ ¬(byteOf (t.roles.get i) 0 < 32 ∨ byteOf (t.roles.get i) 0 = 255)) ∧
    (∀ i : Fin 32, let img := t.slots.get i
      fails 4 i.val ↔ (i.val < 6 ∧ byteOf img 0 = 0) ∨ (6 ≤ i.val ∧ i.val < 10 ∧
        ¬(1 ≤ field img 0 16 ∧ 10 ≤ field img 16 10 ∧ field img 16 10 ≤ 1000 ∧ field img 26 2 ≠ 3))) ∧
    (∀ c : Fin 3, let img := t.drives.get c
      let d := driveOfImage img
      fails 5 c.val ↔ judged img
        ((img.getLsbD 15 = true → namesTerm d.permit) ∧ (img.getLsbD 17 = true → field img 19 3 ≤ 5) ∧
          img.getLsbD 39 = img.getLsbD 47 ∧ d.low ≤ d.high ∧ 50 ≤ d.settle ∧ d.settle ≤ 5000 ∧ 100 ≤ d.verify ∧
          d.verify ≤ 10000 ∧ 50 ≤ d.release ∧ d.release ≤ 5000)) ∧
    (∀ k : Tank, let c := t.tank k
      fails 6 (tankIndex k).val ↔ judged (t.tanks.get (tankIndex k))
        (c.lowAt < c.normalAt ∧ c.normalAt < c.fullAt ∧ 1 ≤ c.capacity ∧
          ∀ pi, c.flow = some pi → ¬fails 4 (pi.val + 6) ∧ t.pulseMode pi = .count ∧ t.boundTank pi = some k)) ∧
    (∀ i : Fin 24, let v := t.param i
      let from_to := fun (a b : Nat) => a ≤ v ∧ v ≤ b
      fails 7 i.val ↔ ¬match i.val with
        | 0 | 1 => v = 125 ∨ v = 250 ∨ v = 500
        | 2 => True
        | 3 | 4 => v ≤ 2
        | 5 | 23 => v ≤ 1
        | 6 => from_to 10 1000
        | 7 | 8 => from_to 100 2000
        | 13 => v < t.param 12
        | 15 | 16 | 17 => from_to (t.param 14) 65535
        | 18 => from_to 1 65535
        | 19 => from_to 20 1000
        | 20 => from_to 100 2550
        | 21 => from_to 5 120
        | 22 => v < 262144
        | _ => v ≤ 65535) ∧
    (∀ tb ix, fails tb ix → ix < (tableShape tb).1) ∧
    t.failing.Pairwise fun a b => a.1 < b.1 ∨ (a.1 = b.1 ∧ a.2 < b.2)) ∧
  ∀ (t : Tables) (failed : List (Nat × Nat)),
    let u := t.retagged failed
    let tagged := fun (tb ix : Nat) (before after : Image20) =>
      tagOf after = (if (tb, ix) ∈ failed then .rejected
        else if tagOf before = .rejected then .valid else tagOf before) ∧
      ∀ b, 1 ≤ b → byteOf after b = byteOf before b
    (∀ e : Fin 96, tagged 0 e.val (t.frt.get e) (u.frt.get e)) ∧ (∀ k : Fin 16, tagged 1 k.val (t.rtt.get k) (u.rtt.get k)) ∧
    (∀ i : Fin 24, tagged 2 i.val (t.itt.get i) (u.itt.get i)) ∧
    (∀ c : Fin 3, tagged 5 c.val (t.drives.get c) (u.drives.get c)) ∧
    (∀ k : Fin 3, tagged 6 k.val (t.tanks.get k) (u.tanks.get k)) ∧
    u.roles = t.roles ∧ u.slots = t.slots ∧ u.params = t.params ∧
    (t.sound = true ↔ t.failing = [] ∧ (∀ e, tagOf (t.frt.get e) ≠ .rejected) ∧ (∀ k, tagOf (t.rtt.get k) ≠ .rejected) ∧
      (∀ i, tagOf (t.itt.get i) ≠ .rejected) ∧ (∀ c, tagOf (t.drives.get c) ≠ .rejected) ∧
      ∀ k, tagOf (t.tanks.get k) ≠ .rejected)

/-- A COMMIT whose shadow set passes: the shadow set, its REJECTED records VALID again, becomes active and stays the shadow set,
CLEAN and unmarked; the fallback state is clear; the Hold Buffer and the reissue records are empty; the store and the reset
causes stay; so do the drives and the ports with their queues and frames in flight, where no delivery is taken between the
steps; a notice that the purge of held frames calls for is queued on the report port; the answer is OK, queued after it. The
blocks take the commit in the order of R192: m is the state after EXC, v after FRE, w after SIG, x after TNK, y after ILK, z
after CSU, each as Sys2Proof/Safety.lean says step by step. Between the steps the blocks take deliveries in the order that the
command carries, after the k-th step the blocks of the k-th list, counted from 0: a block that works wholly under the new tables
takes its oldest delivery (O24), that is EXC at every place, every block but CSU after the step of ILK, every block after that of
CSU; ILK and CSU take before their own steps a band or supply change, CSU a mode change too, of those delivered since the
activation. So for every order the purge finds every frame that was held, TNK's step TNK's state and the drives as they were at
the activation, and ILK's step the bands, the supply and the drives as TNK's step left them. The model's choices among the
clauses: MAIN and ROLL are asked for too (log 10); the steps are taken inside COMMIT, before its answer, the order of the takings
between them is an operand, and no other delivery is taken at its places (log 12); a stale time has passed at its very
millisecond (log 24); SIG's slot events come in the order switches, then extraction slots, TNK's bands as WATER, FOAM_A, FOAM_B,
a mode change before MODE_CONFLICT, and one event's deliveries as ILK, DRV, CSU, TNK (log 29); a TRUE term that the commit makes
EMPTY falls (log 38); ILK's step compares with the results that its takings since the activation left (log 41). -/
def Obligations.CommitSucceeds : Prop :=
  ∀ (r : Request) (s : State), ToMgt s r.port r.begun → s.service = true → s.mgt.save = none →
    (s.sys.fallback = true ∨ (s.ilk.mode = .parked ∧ s.drv.main.state = .disengaged ∧ s.drv.roll.state = .disengaged ∧
      (s.drv.aux.state = .disengaged ∨ s.drv.aux.state = .faulted))) →
    s.mgt.shadow.failing = [] →
      ∃ m v w x y z u, exec (.commit r) s = .next (reply u .commit r .ok []) ∧
        (u = handCommit r.order s.active (activate s) ∧
         u.active = s.mgt.shadow.retagged [] ∧
         u.mgt = { s.mgt with
           shadow := s.mgt.shadow.retagged [], roleMarks := Vector.replicate 11 false,
           slotMarks := Vector.replicate 32 false, paramMarks := Vector.replicate 24 false, modified := false,
           lastCommit := .ok } ∧
         u.sys = { s.sys with fallback := false } ∧ u.fre = { } ∧ u.now = s.now ∧ u.pending = s.pending ∧
         (r.order = [] → u.drv = s.drv ∧ (∃ new, u.outbox = s.outbox ++ new) ∧ ∀ p, PortKept (s.port p) (u.port p))) ∧
        (let turn := commitTurn r.order s.outbox
         (CommitAtExc s.active (activate s) m ∧ CommitAtFre (turn 0 m) v ∧ CommitAtSig s.active (turn 1 v) w ∧
          CommitAtTnk s.active (turn 2 w) x ∧ CommitAtIlk (turn 3 x) y ∧ CommitAtCsu (turn 4 y) z ∧ u = turn 5 z) ∧
         (turn 0 m).fre = s.fre ∧ (turn 2 w).tnk = s.tnk ∧ (turn 2 w).drv = s.drv ∧
         (turn 3 x).tnk = x.tnk ∧ (turn 3 x).drv = x.drv ∧ (turn 3 x).sig = x.sig) ∧
        ∀ (order : List (List Block)) (old : List Instr) (k : Nat) (t : State),
          let change := fun d : Instr => match d with
            | .ilkBandChange _ | .ilkSupplyChange => true
            | .csuInputDelivery (.waterBand _) | .csuInputDelivery (.supply _) | .csuInputDelivery (.mode _) => true
            | _ => false
          let turn := fun (t : State) (b : Block) =>
            if b = .exc ∨ (k = 4 ∧ b ≠ .csu) ∨ 4 < k then takeOldest t b
            else
              match (old.foldl List.erase t.outbox).find? fun d => receiver d == some b && change d with
              | none => t
              | some d => takeEvent d t
          commitTurn order old k t = (order.getD k []).foldl turn t

/-- SAVE: its refusals, its acceptance (the stored image invalid, the save in flight, no answer yet) and its completion, good or
bad. The image a good save leaves holds the active tables, each field as it is and every bit that no field has 0, and is good
exactly where the active tables pass every check; no active set has a mask bit beyond the 18 classes, which the image drops. That
acceptance changes nothing of the stored image but its format code, and a bad completion nothing, where R199 has the tables
written meanwhile, is the model's choice (log 19). That an ITT image keeps only the
kind bits of a counted condition whose kind code is 6 or 7 and nothing behind them is read from R201 (log 40). -/
def Obligations.SaveAndItsCompletion : Prop :=
  (∀ (r : Request) (s : State), ToMgt s r.port r.begun →
    let out := exec (.save r) s
    (s.service = false → out = .next (reply s .save r .refusedPrivilege [])) ∧
    (s.service = true → s.mgt.save ≠ none → out = .next (reply s .save r .busy [])) ∧
    (s.service = true → s.mgt.save = none → s.sys.fallback = false → s.ilk.mode ≠ .parked →
      out = .next (reply s .save r .refusedMode [])) ∧
    (s.service = true → s.mgt.save = none → s.sys.fallback = true ∨ s.ilk.mode = .parked →
      out = .next ((s.setMgt { s.mgt with save := some { port := r.port, tag := r.tag, since := s.now } }).setSys
        { s.sys with store := { s.sys.store with format := 0 } }))) ∧
  (∀ (s : State) (r : SaveRec) (writesDone checkHolds : Bool), Running s → s.mgt.save = some r →
    let idle := s.setMgt { s.mgt with save := none }
    exec (.saveCompletion writesDone checkHolds) s =
      .next (if writesDone = true ∧ checkHolds = true then
          respond (idle.setSys { s.sys with store := StoredImage.ofTables s.active }) r.port 0x08 r.tag .ok []
        else
          (respond idle r.port 0x08 r.tag .storeError []).raise { cls := .storeFault, mode := s.ilk.mode })) ∧
  ∀ t : Tables,
    let u := (StoredImage.ofTables t).tables
    (t.param 22 < 262144 → ((StoredImage.ofTables t).good = true ↔ t.sound = true)) ∧
    (∀ e, u.frt.get e = t.frt.get e &&& 0x7FFF7FFF00FF8F8F1FFFFFFF1FFFFFFFFF9F7FFF) ∧
    (∀ k, u.rtt.get k = t.rtt.get k &&& 0x0FBFFFFF0FBFFFFF0FBFFFFF1FFFFFFF00000FFF) ∧
    (∀ c, u.drives.get c = t.drives.get c &&& 0x0000FFFFFFFFFFFFFFFFFFFF00009F9F003F9FFF) ∧
    (∀ k, u.tanks.get k = t.tanks.get k &&& 0x000000000000FFFFFFFFFFFFFFFFFFFFFFFF83FF) ∧
    (∀ i, u.roles.get i = t.roles.get i &&& 0xFF) ∧
    (∀ i, u.slots.get i = t.slots.get i &&&
      if i.val < 6 then 0x1FF else if i.val < 10 then 0x3FFFFFFF else 0xFF) ∧
    (∀ i, u.params.get i = t.params.get i &&&
      if i.val = 2 then 0x1FFFFFFF else if i.val = 22 then 0x3FFFF else 0xFFFFFFFF) ∧
    (∀ i, u.itt.get i = t.itt.get i &&& (0x7FF ||| condsLayout (t.itt.get i) (field (t.itt.get i) 9 2 + 1) 2) ∧
      tagOf (u.itt.get i) = tagOf (t.itt.get i) ∧
      ittAny (u.itt.get i) = ittAny (t.itt.get i) ∧ ittParse (u.itt.get i) = ittParse (t.itt.get i)) ∧
    ∀ (img : Image20) (n pos : Nat),
      let kept := fun (bits : Image20) (size : Nat) => (bits <<< (8 * pos)) ||| condsLayout img n (pos + size)
      condsLayout img 0 pos = 0 ∧
      condsLayout img (n + 1) pos = match byteOf img pos % 8 with
        | 0 => if byteOf img (pos + 1) = 4 then kept 0xFFFFFFFFFFFFFFFF 8 else kept 0xFFFFFFFFFFFF 6
        | 1 | 5 => kept 0xFF 1
        | 2 => kept 0x3F1F 2
        | 3 => kept 0x1F1F 2
        | 4 => kept 0x0F 1
        | _ => (0x07 : Image20) <<< (8 * pos)

/-- READ_EVENT answers the pending class of the lowest number, the count still pending and the flags, and clears that pending
bit; with none pending it answers 0. CLEAR_EXCEPTIONS clears flags, pending bits, summary and alarm line. CLEAR_CAPTURE empties
the capture record. The two clears need SERVICE. READ_CAPTURE answers the part it names, BAD_INDEX above 4, and changes nothing;
what each part of a full record carries, with the port and reason codes of part 0, and that every part carries the class. -/
def Obligations.ExceptionRequests : Prop :=
  ([some Port.cp, some .bp, none].map portCode = [0, 1, 3] ∧
   [none, some Reason.notPermitted, some .exclusive, some .conflict, some .busy, some .overflow, some .expired, some .purged,
     some .portOff, some .full, some .stale].map reasonCode = [0, 1, 2, 3, 4, 5, 6, 7, 8, 9, 10] ∧
   ∀ (count n : Nat) (v : BitVec n), bytesOf count v = (List.range count).map fun b => v.extractLsb' (8 * b) 8) ∧
  (∀ (r : Request) (s : State), ToMgt s r.port r.begun →
     (s.exc.pend = 0 → exec (.readEvent r) s =
       .next (reply s .readEvent r .ok (0 :: 0 :: bytesOf 3 s.exc.flags))) ∧
     (∀ n : Fin 18, s.exc.pend.getLsbD n.val = true → (∀ m : Fin 18, m < n → s.exc.pend.getLsbD m.val = false) →
       exec (.readEvent r) s =
         .next (reply (s.setExc { s.exc with pend := s.exc.pend &&& ~~~BitVec.twoPow 18 n.val }) .readEvent r .ok
           (lowByte (n.val + 1)
             :: lowByte ((List.range 18).countP fun m => m != n.val && s.exc.pend.getLsbD m)
             :: bytesOf 3 s.exc.flags))) ∧
     (s.service = false →
       exec (.clearExceptions r) s = .next (reply s .clearExceptions r .refusedPrivilege []) ∧
       exec (.clearCapture r) s = .next (reply s .clearCapture r .refusedPrivilege [])) ∧
     (s.service = true →
       exec (.clearExceptions r) s =
         .next (reply ((s.setExc { s.exc with flags := 0, pend := 0, summary := false }).setOuts
           { s.outs with alarm := false }) .clearExceptions r .ok []) ∧
       exec (.clearCapture r) s =
         .next (reply (s.setExc { s.exc with capture := none }) .clearCapture r .ok []))) ∧
  (∀ (r : Request) (s : State), ToMgt s r.port r.begun →
     (4 < r.b2.toNat → exec (.readCapture r) s = .next (reply s .readCapture r .badIndex [])) ∧
     (r.b2.toNat ≤ 4 → ∃ data, captureBytes s r.b2.toNat = some data ∧
       exec (.readCapture r) s = .next (reply s.drawn .readCapture r .ok data)) ∧
     (s.exc.capture = none → ∀ d, captureBytes s r.b2.toNat = some d → (d.getD 0 0).toNat % 32 = 0) ∧
     ∀ k : Capture, s.exc.capture = some k →
       (∀ d, captureBytes s r.b2.toNat = some d → (d.getD 0 0).toNat % 32 = classNumber k.raise.cls) ∧
       captureBytes s 0 = some
         [lowByte (classNumber k.raise.cls),
           packByte [(modeCode k.raise.mode, 0), (flagNat k.further, 3), (portCode k.raise.port, 4)],
           lowByte (reasonCode k.raise.reason)] ∧
       (∀ f : Frame, k.raise.frame = some f →
         captureBytes s 1 = some (
           packByte [(classNumber k.raise.cls, 0), (1, 5), (if f.ext then 0 else 1, 6), (f.data.length / 8 % 2, 7)]
           :: bytesOf 4 (BitVec.ofNat 32 (f.ident.toNat + f.data.length % 8 * 536870912))) ∧
         captureBytes s 2 = some (lowByte (classNumber k.raise.cls)
           :: [f.data.getD 0 0, f.data.getD 1 0, f.data.getD 2 0, f.data.getD 3 0]) ∧
         captureBytes s 3 = some (lowByte (classNumber k.raise.cls)
           :: [f.data.getD 4 0, f.data.getD 5 0, f.data.getD 6 0, f.data.getD 7 0])) ∧
       (k.raise.frame = none → ∀ d, captureBytes s 1 = some d → (d.getD 0 0).getLsbD 5 = false) ∧
       captureBytes s 4 = some
         [lowByte (classNumber k.raise.cls), lowByte ((k.raise.entry.map (·.val)).getD 255),
           lowByte ((k.raise.term.map (·.val)).getD 255),
           lowByte ((k.raise.channel.map fun c => (channelIndex c).val).getD 255),
           lowByte ((k.raise.tank.map fun t => (tankIndex t).val).getD 255)])

/-- DRIVE_COMMAND: BAD_INDEX, BAD_REQUEST, REFUSED_PRIVILEGE for a CLEAR without SERVICE, else the action is DRV's, and the
answer carries the result, the reason of a REFUSED one (1 NOT_PERMITTED, 2 EXCLUSIVE, 3 CONFLICT, else 0), and state and last
outcome as DRV leaves them. A CLEAR takes a FAULTED channel to DISENGAGED where it has no confirm switch or the switch reads
disengaged, and answers BUSY otherwise. The model's choice: where both operands are undefined, which of the two errors is
answered is free (log 17). -/
def Obligations.DriveCommandActs : Prop :=
  ∀ (r : Request) (s : State), ToMgt s r.port r.begun →
    let out := exec (.driveCommand r) s
    let act := fun (c : Channel) (d : State × DriveResult) =>
      ∃ reason : Byte, out = .next (reply d.1 .driveCommand r
          (match d.2 with | .ok => .ok | .busy => .busy | .refused _ => .refused)
          [reason, lowByte (driveCode (d.1.chan c).state), lowByte (outcomeCode (d.1.chan c).outcome)]) ∧
        (d.2 = .refused .notPermitted → reason = 1) ∧ (d.2 = .refused .exclusive → reason = 2) ∧
        (d.2 = .refused .conflict → reason = 3) ∧ ((∀ w, d.2 ≠ .refused w) → reason = 0) ∧ d.2 ≠ .refused .busy
    (2 < r.b2.toNat → r.b3.toNat ≤ 2 → out = .next (reply s .driveCommand r .badIndex [])) ∧
    (r.b2.toNat ≤ 2 → 2 < r.b3.toNat → out = .next (reply s .driveCommand r .badRequest [])) ∧
    (2 < r.b2.toNat → 2 < r.b3.toNat → ∃ res, (res = .badIndex ∨ res = .badRequest) ∧
      out = .next (reply s .driveCommand r res [])) ∧
    ∀ c : Channel, r.b2.toNat = (channelIndex c).val →
      (r.b3 = 0 → act c (engage s c .management)) ∧
      (r.b3 = 1 → act c (disengage s c)) ∧
      (r.b3 = 2 → s.service = false → out = .next (reply s .driveCommand r .refusedPrivilege [])) ∧
      (r.b3 = 2 → s.service = true →
        let d := s.active.drive c
        let free := d.confirm = none ∨
          ∃ i, d.confirm = some i ∧ (s.slot i).fresh = .fresh ∧ (s.slot i).value.toNat ≠ d.level
        ((s.chan c).state = .disengaged → act c (s, .ok)) ∧
        ((s.chan c).state ≠ .disengaged → (s.chan c).state ≠ .faulted → act c (s, .busy)) ∧
        ((s.chan c).state = .faulted → ¬free → act c (s, .busy)) ∧
        ((s.chan c).state = .faulted → free →
          act c (enter s c { s.chan c with state := .disengaged, timer := none, origin := none }, .ok)))

/-- VALVE_COMMAND: BAD_INDEX, BAD_REQUEST, else one taking in TNK with the tank valve set as asked, or the fill valve opened,
closed, or refused with reason FILL, and the answer carries the tank valve's setting, the override, OUT_TANK_VALVE and the fill
valve's setting as TNK leaves them. The model's choices: an open request is refused wherever the fill conditions do not hold, of
an OPEN valve too (log 30); where both operands are undefined, which of the two errors is answered is free (log 17). -/
def Obligations.ValveCommandActs : Prop :=
  ∀ (r : Request) (s : State), ToMgt s r.port r.begun →
    let out := exec (.valveCommand r) s
    let act := fun (n : TnkRec) (refused : Bool) =>
      let u := tnkTake s n refused
      out = .next (reply u .valveCommand r (if refused then .refused else .ok)
        [if refused then 4 else 0,
          packByte [(if u.tnk.tankOpen then 1 else 0, 0), (if u.tnk.override then 1 else 0, 1),
            (if u.outs.tank then 1 else 0, 2), (if u.tnk.fillOpen then 1 else 0, 3)]])
    (1 < r.b2.toNat → r.b3.toNat ≤ 1 → out = .next (reply s .valveCommand r .badIndex [])) ∧
    (r.b2.toNat ≤ 1 → 1 < r.b3.toNat → out = .next (reply s .valveCommand r .badRequest [])) ∧
    (1 < r.b2.toNat → 1 < r.b3.toNat → ∃ res, (res = .badIndex ∨ res = .badRequest) ∧
      out = .next (reply s .valveCommand r res [])) ∧
    (r.b2 = 0 → r.b3 = 0 → act { s.tnk with tankOpen := true } false) ∧
    (r.b2 = 0 → r.b3 = 1 → act { s.tnk with tankOpen := false } false) ∧
    (let may := s.tnk.supply = .hydrant ∧ (s.tnk.water.band = .empty ∨ s.tnk.water.band = .low ∨ s.tnk.water.band = .normal) ∧
       s.tnk.water.source = .sender
     (r.b2 = 1 → r.b3 = 0 → may → act { s.tnk with fillOpen := true } false) ∧
     (r.b2 = 1 → r.b3 = 0 → ¬may → act s.tnk true)) ∧
    (r.b2 = 1 → r.b3 = 1 → act { s.tnk with fillOpen := false } false)

/-- READ_RESET_CAUSE answers the highest-ranking member and those that remain, and removes it. RESET_PART is a MANAGEMENT reset,
for SERVICE, in PARKED or with the fallback state set. -/
def Obligations.ResetRequests : Prop :=
  ∀ (r : Request) (s : State), ToMgt s r.port r.begun →
    let c := s.sys.causes
    let readOut := fun (n : Byte) (d : ResetCauses) =>
      exec (.readResetCause r) s = .next (reply (s.setSys { s.sys with causes := d }) .readResetCause r .ok
        [n, packByte [(flagNat d.powerOn, 0), (flagNat d.resetLine, 1), (flagNat d.management, 2),
          (flagNat d.startFallback, 3)]])
    (c.powerOn = true → readOut 1 { c with powerOn := false }) ∧
    (c.powerOn = false → c.resetLine = true → readOut 2 { c with resetLine := false }) ∧
    (c.powerOn = false → c.resetLine = false → c.management = true → readOut 3 { c with management := false }) ∧
    (c.powerOn = false → c.resetLine = false → c.management = false → c.startFallback = true →
      readOut 4 { c with startFallback := false }) ∧
    (c = { } → readOut 0 c) ∧
    (s.service = false → exec (.resetPart r) s = .next (reply s .resetPart r .refusedPrivilege [])) ∧
    (s.service = true → s.sys.fallback = false → s.ilk.mode ≠ .parked →
      exec (.resetPart r) s = .next (reply s .resetPart r .refusedMode [])) ∧
    (s.service = true → s.sys.fallback = true ∨ s.ilk.mode = .parked →
      exec (.resetPart r) s = .next (managementReset s))

/-! Frames in FRE. -/

/-- A frame's entry is the first VALID entry whose port selector and masked identifier claim it. A frame for FRE without entry
takes UNMATCHED_ACTION, and nothing else happens. -/
def Obligations.LookupAndUnmatchedFrames : Prop :=
  (∀ (t : Tables) (p : Port) (id : Ident),
    let claims := fun e : Fin 96 =>
      isValid (t.frt.get e) = true ∧
      (field (t.frt.get e) 8 2 = 2 ∨ (field (t.frt.get e) 8 2 = 0 ∧ p = .cp) ∨
        (field (t.frt.get e) 8 2 = 1 ∧ p = .bp)) ∧
      id &&& frtMask (t.frt.get e) = frtValue (t.frt.get e) &&& frtMask (t.frt.get e)
    (∀ e, t.lookup p id = some e ↔ claims e ∧ ∀ e' < e, ¬claims e') ∧
    (t.lookup p id = none ↔ ∀ e, ¬claims e)) ∧
  ∀ (s : State) (a : Arrival) (id : Ident) (data : List Byte), ToFre s a id → s.active.lookup a.port id = none →
    exec (.frameHandledByFre a id data) s =
      .next (if s.active.param 5 = 0 then
          queueForwarded s a.port.other { frame := extFrame id data, arrival := a.port, entry := none, mark := false }
        else s)

/-- A matched frame with an extraction out of range and FIELD_RANGE unmasked: the class is raised for each such extraction and
nothing else happens. Any other matched frame goes through extraction and heartbeat to its action; without an extraction
list the first step does nothing. The first step, for a list of any length: the extractions in list order, each a write whose
event goes to all its subscribers; after the k-th write the blocks that the k-th list of the command's order names take each
the oldest delivery that waits for it, as its command does, FRE only the oldest rise delivered since the frame began; ILK takes
the write's event before the next write, if it has not; then FRE takes the rises delivered since that it has not taken. So ILK,
DRV and TNK take one event in any order. The model's choices: the order of these takings is an operand of the command (log 11);
FIELD_RANGE carries the mode from before the writes (log 37). -/
def Obligations.MatchedFrameSteps : Prop :=
  (∀ (s : State) (a : Arrival) (id : Ident) (data : List Byte) (e : Fin 96),
    let f := extFrame id data
    let xs := frtExtractions (s.entry e)
    let out := exec (.frameHandledByFre a id data) s
    (ToFre s a id → s.active.lookup a.port id = some e → (∃ x ∈ xs, x.fits f.data.length = false) →
      s.active.masked .fieldRange = false →
        out = .next (s.post (List.replicate (xs.filter fun x => !x.fits f.data.length).length
          (.exceptionRaise
            { cls := .fieldRange, mode := s.ilk.mode, port := some a.port, frame := some f, entry := some e })))) ∧
    (HandledBy s a id data e → out = .next (frameAction (atAction s a f e) f a.port e)) ∧
    (xs = [] → atAction s a f e = if frtHeartbeat (s.entry e) then s.post [.heartbeat] else s)) ∧
  (∀ (s : State) (a : Arrival) (f : Frame) (e : Fin 96),
    let xs := frtExtractions (s.entry e)
    let u := extract (s.post (List.replicate (xs.filter fun x => !x.fits f.data.length).length (.exceptionRaise
      { cls := .fieldRange, mode := s.ilk.mode, port := some a.port, frame := some f, entry := some e }))) a.order f e
        (xs.filter fun x => x.fits f.data.length)
    atAction s a f e = if frtHeartbeat (s.entry e) then u.post [.heartbeat] else u) ∧
  (∀ (s : State) (order : List (List Block)) (f : Frame) (e : Fin 96) (xs : List Extraction),
    let rise := fun (d : Instr) => match d with | .termRiseAtFre t => some t | _ => none
    let rises := fun (v : State) => v.outbox.filterMap rise
    let release := fun (v : State) (t : Fin 24) => takeRise (v.taken (.termRiseAtFre t)) t
    let turn := fun (v : State) (b : Block) =>
      if b = .fre then (match (rises v)[(rises s).length]? with | none => v | some t => release v t) else takeOldest v b
    let write := fun (v : State) (first : List Block) (x : Extraction) =>
      let n := v.active
      let new := BitVec.ofNat 16 (readField f.data x.start x.len)
      let old := v.slot x.slot
      let event : SlotEvent := .written x.slot new (if old.fresh = .never then 0 else old.value) old.fresh (.entry e)
      let w := first.foldl turn ((v.setSlot x.slot
        { value := new, fresh := .fresh, writtenAt := v.now, writer := .entry e,
          staleAt := if n.staleTime x.slot = 0 then none else some (v.now + n.staleTime x.slot) }).post
        ((if n.ilkSubscribes x.slot then [.ilkSlotEvent event] else []) ++
          (if n.drvSubscribes x.slot then [.drvSlotEvent event] else []) ++
            if n.tnkSubscribes x.slot then [.tnkSlotEvent event] else []))
      if .ilkSlotEvent event ∈ w.outbox then ilkTakeSlot (w.taken (.ilkSlotEvent event)) event else w
    let w := xs.zipIdx.foldl (fun v x => write v (order.getD x.2 []) x.1) s
    extract s order f e xs = ((rises w).drop (rises s).length).foldl release w) ∧
  (∀ (s : State) (b : Block), Running s →
    ((∀ d ∈ s.outbox, receiver d ≠ some b) → takeOldest s b = s) ∧
    ∀ older d newer, s.outbox = older ++ d :: newer → (∀ x ∈ older, receiver x ≠ some b) → receiver d = some b →
      exec d s = .next (takeOldest s b)) ∧
  (∀ (ev : SlotEvent) (c : Channel) (k : Tank) (t : Fin 24) (st : DriveState) (i : CsuInput) (r : Raise),
    [Instr.ilkSlotEvent ev, .ilkDriveStateChange c, .ilkBandChange k, .ilkSupplyChange].map receiver =
      [some .ilk, some .ilk, some .ilk, some .ilk] ∧
    [Instr.drvSlotEvent ev, .permitTermFall t, .permitTermRise t, .supervisionLapse, .runDryRequest c].map receiver =
      [some .drv, some .drv, some .drv, some .drv, some .drv] ∧
    [Instr.tnkSlotEvent ev, .volumeUnit k, .tnkDriveStateChange c st, .csuInputDelivery i, .heartbeat].map receiver =
      [some .tnk, some .tnk, some .tnk, some .csu, some .csu] ∧
    [Instr.termRiseAtFre t, .termFallAtFre t, .ceilingFall, .exceptionRaise r].map receiver =
      [some .fre, some .fre, some .fre, some .exc]) ∧
  ∀ s : State, Running s →
    (∀ event, exec (.ilkSlotEvent event) s = .next (ilkTakeSlot (s.taken (.ilkSlotEvent event)) event)) ∧
    ∀ t, exec (.termRiseAtFre t) s = .next (takeRise (s.taken (.termRiseAtFre t)) t)

/-- PASS forwards a frame, unchanged or through the open template; DROP discards it. Nothing is raised and no term is read. -/
def Obligations.PassAndDropEntries : Prop :=
  ∀ (s : State) (a : Arrival) (id : Ident) (data : List Byte) (e : Fin 96), HandledBy s a id data e →
    let p := a.port
    let f := extFrame id data
    let u := atAction s a f e
    let out := exec (.frameHandledByFre a id data) s
    (frtAction (s.entry e) = .drop → out = .next u) ∧
    (frtAction (s.entry e) = .pass → frtOpen (s.entry e) = none →
      out = .next (queueForwarded u p.other
        { frame := f, arrival := p, entry := some e, mark := frtCoalesce (s.entry e) })) ∧
    ∀ k, frtAction (s.entry e) = .pass → frtOpen (s.entry e) = some k → out = .next (forwardVia u (some k) f p e)

/-- GATE forwards a frame while its term is TRUE, and gives it the closed treatment otherwise: substitution through the closed
template or discard, with LOCKOUT or STALE_GATE where the report flag is set. The model's choices: what the substitution does,
a FIELD_RANGE of the closed template among it, comes before LOCKOUT or STALE_GATE (log 29); a raise carries the mode from after
the frame's own extraction (log 37). -/
def Obligations.GateEntriesAndClosedTreatment : Prop :=
  (∀ (s : State) (a : Arrival) (id : Ident) (data : List Byte) (e : Fin 96) (t : Fin 24),
    HandledBy s a id data e → frtAction (s.entry e) = .gate → frtTerm (s.entry e) = some t →
      let f := extFrame id data
      let u := atAction s a f e
      exec (.frameHandledByFre a id data) s =
        .next (if u.ilk.terms.get t = .tt then forwardVia u (frtOpen (s.entry e)) f a.port e
          else closedTreatment u f a.port e t (u.ilk.terms.get t))) ∧
  ∀ (u : State) (f : Frame) (p : Port) (e : Fin 96) (t : Fin 24) (result : Tri),
    let report : Raise :=
      { cls := if result = .unknown then .staleGate else .lockout, mode := u.ilk.mode, port := some p, frame := some f,
        entry := some e, term := some t }
    (frtClosed (u.entry e) = none → frtReport (u.entry e) = false → closedTreatment u f p e t result = u) ∧
    (frtClosed (u.entry e) = none → frtReport (u.entry e) = true → closedTreatment u f p e t result = u.raise report) ∧
    (∀ k, frtClosed (u.entry e) = some k → frtReport (u.entry e) = false →
      closedTreatment u f p e t result = forwardVia u (some k) f p e) ∧
    ∀ k, frtClosed (u.entry e) = some k → frtReport (u.entry e) = true →
      closedTreatment u f p e t result = (forwardVia u (some k) f p e).raise report

/-- HOLD forwards a frame while its term is TRUE, an older held frame of the same identifier and entry removed first. Otherwise
the frame supersedes that held frame in its place, is turned away with HOLD_DISCARD OVERFLOW where the buffer is full or
another entry holds the identifier, or is placed as the newest held frame. The model's choices: the closed treatment's LOCKOUT
or STALE_GATE comes before HOLD_DISCARD OVERFLOW, which decides the capture record (log 29); HOLD_DISCARD carries the mode from
after the frame's own extraction (log 37). -/
def Obligations.HoldEntries : Prop :=
  ∀ (s : State) (a : Arrival) (id : Ident) (data : List Byte) (e : Fin 96) (t : Fin 24),
    HandledBy s a id data e → frtAction (s.entry e) = .hold → frtTerm (s.entry e) = some t →
      let p := a.port
      let f := extFrame id data
      let u := atAction s a f e
      let out := exec (.frameHandledByFre a id data) s
      (u.ilk.terms.get t = .tt →
        out = .next (forwardVia
          (u.setHold (u.fre.hold.filter fun h => !(h.frame.ident == id && h.entry == e))) (frtOpen (s.entry e)) f p e)) ∧
      (u.ilk.terms.get t ≠ .tt →
        ((∃ h ∈ u.fre.hold, h.frame.ident = id ∧ h.entry = e) →
          out = .next (u.setHold (u.fre.hold.map fun h =>
            if h.frame.ident = id ∧ h.entry = e then { h with frame := f, arrival := p } else h))) ∧
        ((∀ h ∈ u.fre.hold, ¬(h.frame.ident = id ∧ h.entry = e)) →
          ((∃ h ∈ u.fre.hold, h.frame.ident = id) ∨ 8 ≤ u.fre.hold.length →
            out = .next ((closedTreatment u f p e t (u.ilk.terms.get t)).raise
              { cls := .holdDiscard, mode := u.ilk.mode, port := some p, frame := some f, entry := some e, term := some t,
                reason := some .overflow })) ∧
          ((∀ h ∈ u.fre.hold, h.frame.ident ≠ id) → u.fre.hold.length < 8 →
            out = .next (u.setHold (u.fre.hold ++
              [{ frame := f, arrival := p, entry := e, term := t, deadline := u.now + frtHoldTime (s.entry e) }])))))

/-- A SET patch writes the lowest bits of its constant into its field; the length and every other field of the data stay. -/
def Obligations.SetPatchWritesItsField : Prop :=
  ∀ (c : Nat) (data : List Byte) (q : Patch), q.clamp = false → q.start + q.len ≤ 8 * data.length →
    readField (applyPatch c data q) q.start q.len = q.const % 2 ^ q.len ∧
    (applyPatch c data q).length = data.length ∧
    ∀ start len, start + len ≤ q.start ∨ q.start + q.len ≤ start →
      readField (applyPatch c data q) start len = readField data start len

/-- Forwarding through a template: with a patch out of range the frame is lost and FIELD_RANGE raised; else the patches apply at
the applied ceiling, the identifier is replaced where the template says so, the frame is queued on the other port, and a
template with the reissue flag records it. A CLAMP patch leaves in its field the lesser of field and ceiling where the ceiling
fits, else the field, never more than the ceiling; the length and every other field of the data stay. -/
def Obligations.TemplateForwarding : Prop :=
  (∀ (s : State) (k : Fin 16) (f : Frame) (p : Port) (e : Fin 96),
     let img := s.active.rtt.get k
     let ps := rttPatches img
     let g : Frame := { ext := true, ident := (rttReplacement img).getD f.ident,
                        data := ps.foldl (applyPatch s.csu.applied.toNat) f.data }
     let q : State := queueForwarded s p.other
       { frame := g, arrival := p, entry := some e, mark := frtCoalesce (s.entry e) }
     ((∃ x ∈ ps, 8 * f.data.length < x.start + x.len) →
       forwardVia s (some k) f p e = s.raise
         { cls := .fieldRange, mode := s.ilk.mode, port := some p, frame := some f, entry := some e }) ∧
     ((∀ x ∈ ps, x.start + x.len ≤ 8 * f.data.length) → rttReissue img = false → forwardVia s (some k) f p e = q) ∧
     ((∀ x ∈ ps, x.start + x.len ≤ 8 * f.data.length) → rttReissue img = true →
       forwardVia s (some k) f p e = q.setReissue k (some
         { frame := g, clamps := (ps.filter fun x => x.clamp).map fun x =>
             { start := x.start, len := x.len, raw := readField f.data x.start x.len }
           target := p.other, arrival := p, entry := e, time := s.now }))) ∧
  (∀ (c : Nat) (data : List Byte) (q : Patch), q.clamp = true → q.start + q.len ≤ 8 * data.length →
     let f := readField data q.start q.len
     readField (applyPatch c data q) q.start q.len = (if c < 2 ^ q.len then min f c else f) ∧
     readField (applyPatch c data q) q.start q.len ≤ c ∧
     (applyPatch c data q).length = data.length ∧
     ∀ start len, start + len ≤ q.start ∨ q.start + q.len ≤ start →
       readField (applyPatch c data q) start len = readField data start len)

/-- A term rise releases the frames held on the term, oldest first, where the term is still TRUE; a fall releases none. A held
frame whose deadline is reached leaves the buffer, receives the closed treatment, and HOLD_DISCARD EXPIRED is raised. The
model's choices: the expiry command brings the clock up to the deadline (log 3); the treatment's LOCKOUT or STALE_GATE comes
before HOLD_DISCARD, which decides the capture record (log 29). -/
def Obligations.HoldBufferEvents : Prop :=
  (∀ (s : State) (t : Fin 24), Running s →
     (s.ilk.terms.get t ≠ .tt → exec (.termRiseAtFre t) s = .next (s.taken (.termRiseAtFre t))) ∧
     (s.ilk.terms.get t = .tt →
       exec (.termRiseAtFre t) s =
         .next ((s.fre.hold.filter fun h => h.term == t).foldl
           (fun v h => forwardVia v (frtOpen (s.entry h.entry)) h.frame h.arrival h.entry)
           ((s.taken (.termRiseAtFre t)).setHold (s.fre.hold.filter fun h => h.term != t)))) ∧
     exec (.termFallAtFre t) s = .next (s.taken (.termFallAtFre t))) ∧
  (∀ (s : State) (before after : List HeldFrame) (h : HeldFrame), Running s → s.fre.hold = before ++ h :: after →
     (∀ x ∈ before, x.frame.ident ≠ h.frame.ident) →
       let u := (s.clock h.deadline).setHold (before ++ after)
       exec (.holdDeadlineExpiry h.frame.ident) s =
         .next ((closedTreatment u h.frame h.arrival h.entry h.term (s.ilk.terms.get h.term)).raise
           { cls := .holdDiscard, mode := s.ilk.mode, port := some h.arrival, frame := some h.frame, entry := some h.entry,
             term := some h.term, reason := some .expired }))

/-- A ceiling fall goes through the reissue records in rising template order: a record within REISSUE_WINDOW with a CLAMP field
above the applied ceiling is queued again, re-clamped, with the coalescing mark, and holds the new data; any other stays. -/
def Obligations.CeilingFallReissues : Prop :=
  (∀ s : State, Running s →
    exec .ceilingFall s = .next ((List.finRange 16).foldl reissueOne (s.taken .ceilingFall))) ∧
  ∀ (s : State) (k : Fin 16),
    (s.fre.reissue.get k = none → reissueOne s k = s) ∧
    ∀ r : ReissueRec, s.fre.reissue.get k = some r →
      let due := s.now - r.time < s.active.param 8 ∧
        ∃ c ∈ r.clamps, s.csu.applied.toNat < readField r.frame.data c.start c.len
      let g : Frame := { r.frame with
        data := r.clamps.foldl (fun d c => writeField d c.start c.len (min c.raw s.csu.applied.toNat)) r.frame.data }
      (¬due → reissueOne s k = s) ∧
      (due → reissueOne s k =
        (queueForwarded s r.target { frame := g, arrival := r.arrival, entry := some r.entry, mark := true }).setReissue k
          (some { r with frame := g }))

/-! The Signal Table and the line inputs. -/

/-- A write makes its slot FRESH with the value and the writer, restarts the stale timer, and is delivered once to each
subscriber with what the slot held before. The subscribers are those of the active tables: ILK to the slots of ROAD_SPEED,
PARK_BRAKE and the SIGNAL conditions of VALID terms, DRV to those of its REQ roles, confirm switches and speeds, TNK to those of
its LEVEL roles, INTAKE_PRESSURE, REQ_TANK_VALVE and REQ_FILL. The extractions that FRE hands on are such writes, in list order.
The stale timer of a FRESH slot makes it STALE, its value and writer kept. The model's choices: the expiry command brings the
clock up to the timer (log 3); of the deliveries of one event, ILK's stands before DRV's and DRV's before TNK's (log 29). -/
def Obligations.SlotWritesAndStaleness : Prop :=
  (∀ (s : State) (i : Fin 32) (v : Raw) (w : Writer),
    writeSlot s i v w =
      (s.setSlot i
        { value := v, fresh := .fresh, writtenAt := s.now, writer := w,
          staleAt := if s.active.staleTime i = 0 then none else some (s.now + s.active.staleTime i) }).post
        (slotDeliveries s.active
          (.written i v (if (s.slot i).fresh = .never then 0 else (s.slot i).value) (s.slot i).fresh w))) ∧
  (∀ (t : Tables) (e : SlotEvent), slotDeliveries t e =
    (if t.ilkSubscribes e.slot then [.ilkSlotEvent e] else []) ++
      (if t.drvSubscribes e.slot then [.drvSlotEvent e] else []) ++
        (if t.tnkSubscribes e.slot then [.tnkSlotEvent e] else [])) ∧
  (∀ (t : Tables) (i : Fin 32),
    (t.ilkSubscribes i = true ↔ t.role .roadSpeed = some i ∨ t.role .parkBrake = some i ∨
      ∃ k rel lo h hi, Cond.signal i rel lo h hi ∈ t.conds k) ∧
    (t.drvSubscribes i = true ↔ ∃ c : Channel, let d := t.drive c
      t.role (reqRole c) = some i ∨ d.confirm = some i ∨ ∃ a b, d.speeds = some (a, b) ∧ (a = i ∨ b = i)) ∧
    (t.tnkSubscribes i = true ↔ (∃ k : Tank, t.role (tankRole k) = some i) ∨ t.role .intakePressure = some i ∨
      t.role .reqTankValve = some i ∨ t.role .reqFill = some i)) ∧
  (∀ (s : State) (order : List (List Block)) (f : Frame) (e : Fin 96) (xs : List Extraction),
    (extract s order f e xs).sig = (xs.foldl (fun v x =>
      writeSlot v x.slot (BitVec.ofNat 16 (readField f.data x.start x.len)) (.entry e)) s).sig) ∧
  ∀ (s : State) (i : Fin 32) (t : Nat), Running s → (s.slot i).fresh = .fresh → (s.slot i).staleAt = some t →
    exec (.staleTimerExpiry i) s =
      .next (((s.clock t).setSlot i { s.slot i with fresh := .stale, staleAt := none }).post
        (slotDeliveries s.active (.stale i (s.slot i).value)))

/-- A switch line that changes in RUN restarts its debounce timer. At the expiry a level that differs from the accepted level,
or the first, is accepted and written, 1 for high unless inverted; a level that has bounced back is not. A rising edge counts in
SPEED and COUNT; in COUNT the N-th restarts the count, writes the slot's value plus 1, wrapping at 65535, and delivers a volume
unit to the bound tank. The end of a window writes the count, held at 65535, and starts the next window. The model's choices: an
expiry command brings the clock up to its timer (log 3); a change to the level that the line already has does nothing (log 4);
a level given outside RUN is kept (log 8); the next window begins when the expiry is taken (log 20). -/
def Obligations.LineInputsAreSampled : Prop :=
  (∀ (s : State) (sw : Fin 6),
     let r := s.sig.switches.get sw
     (∀ high, r.line = high → exec (.switchLevelChange sw high) s = .next s) ∧
     (∀ high, r.line ≠ high → Running s →
       exec (.switchLevelChange sw high) s =
         .next (s.setSwitch sw { r with line := high, timer := some (s.now + s.active.debounce sw) })) ∧
     (∀ high, r.line ≠ high → ¬Running s →
       exec (.switchLevelChange sw high) s = .next (s.setSwitch sw { r with line := high })) ∧
     ∀ t, Running s → r.timer = some t →
       (r.accepted = some r.line →
         exec (.debounceExpiry sw) s = .next ((s.clock t).setSwitch sw { r with timer := none })) ∧
       (r.accepted ≠ some r.line →
         exec (.debounceExpiry sw) s =
           .next (writeSlot ((s.clock t).setSwitch sw { r with accepted := some r.line, timer := none }) (switchSlot sw)
             (if r.line = s.active.inverted sw then 0 else 1) .line))) ∧
  (∀ (s : State) (pi : Fin 4), Running s →
     let r := s.sig.pulses.get pi
     let counted := s.setPulse pi { r with count := r.count + 1 }
     (s.active.pulseMode pi = .off → exec (.pulseEdge pi) s = .next s) ∧
     (s.active.pulseMode pi = .speed → exec (.pulseEdge pi) s = .next counted) ∧
     (s.active.pulseMode pi = .count → r.count + 1 < s.active.divisor pi → exec (.pulseEdge pi) s = .next counted) ∧
     (s.active.pulseMode pi = .count → s.active.divisor pi ≤ r.count + 1 →
       exec (.pulseEdge pi) s =
         .next ((writeSlot (s.setPulse pi { r with count := 0 }) (pulseSlot pi) ((s.slot (pulseSlot pi)).value + 1)
           .line).post ((s.active.boundTank pi).toList.map fun k => .volumeUnit k))) ∧
     ∀ t, r.windowEnd = some t →
       exec (.windowExpiry pi) s =
         .next ((writeSlot (s.clock t) (pulseSlot pi) (BitVec.ofNat 16 (min r.count 65535)) .line).setPulse pi
           { count := 0, windowEnd := some (max s.now t + r.pendingLen.getD r.windowLen),
             windowLen := r.pendingLen.getD r.windowLen, pendingLen := none }))

/-! Interlock terms and the vehicle mode. -/

/-- LT, GE and INSIDE conditions that are TRUE or FALSE change with hysteresis, sums taken in full and lo - h held at 0. -/
def Obligations.HysteresisOfRelations : Prop :=
  ∀ lo h hi v : Raw,
    afterWrite .lt lo h hi .ff v = (if v.toNat < lo.toNat then .tt else .ff) ∧
    afterWrite .lt lo h hi .tt v = (if lo.toNat + h.toNat ≤ v.toNat then .ff else .tt) ∧
    afterWrite .ge lo h hi .ff v = (if lo.toNat + h.toNat ≤ v.toNat then .tt else .ff) ∧
    afterWrite .ge lo h hi .tt v = (if v.toNat < lo.toNat then .ff else .tt) ∧
    afterWrite .inside lo h hi .ff v = (if lo.toNat ≤ v.toNat ∧ v.toNat ≤ hi.toNat then .tt else .ff) ∧
    afterWrite .inside lo h hi .tt v =
      (if v.toNat < lo.toNat - h.toNat ∨ hi.toNat + h.toNat < v.toNat then .ff else .tt)

/-- The four takings of ILK at the conditions. A slot event reaches the SIGNAL conditions on its slot: a stale event makes them
UNKNOWN, and a write takes UNKNOWN ones, and all EQ and NE ones, by plain comparison, the others by hysteresis. A change of a
channel, a band or the supply reaches the conditions on it, and a change of the mode in the taking every MODE condition: each
takes its owner's state. A condition that is not reached keeps the result it holds. A TERM condition passes the result of the
named term. That a reached condition reads its owner's state as it stands at the taking, be it newer than the delivery, is the
model's choice (log 13). -/
def Obligations.ConditionsTakeTheirInputs : Prop :=
  (∀ lo h hi v : Raw, ∀ m : Tri,
    afterWrite .lt lo h hi .unknown v = (if v.toNat < lo.toNat then .tt else .ff) ∧
    afterWrite .ge lo h hi .unknown v = (if lo.toNat ≤ v.toNat then .tt else .ff) ∧
    afterWrite .inside lo h hi .unknown v = (if lo.toNat ≤ v.toNat ∧ v.toNat ≤ hi.toNat then .tt else .ff) ∧
    afterWrite .eq lo h hi m v = (if v = lo then .tt else .ff) ∧
    afterWrite .ne lo h hi m v = (if v = lo then .ff else .tt)) ∧
  (∀ (s : State) (c : Instr), Running s →
    ((∃ e, c = .ilkSlotEvent e) ∨ (∃ d, c = .ilkDriveStateChange d) ∨ (∃ k, c = .ilkBandChange k) ∨
      c = .ilkSupplyChange) →
      ∃ ilk ob, exec c s = .next { s with ilk := ilk, outbox := ob } ∧
        ∀ (t : Fin 24) (j : Fin 4) (cond : Cond), (s.active.conds t)[j.val]? = some cond →
          let before := (s.ilk.mem.get t).get j
          let after := (ilk.mem.get t).get j
          match cond with
          | .signal i rel lo h hi =>
            ((∀ e, c = .ilkSlotEvent e → i ≠ e.slot) → after = before) ∧
            (∀ v, c = .ilkSlotEvent (.stale i v) → after = .unknown) ∧
            ∀ v old fr w, c = .ilkSlotEvent (.written i v old fr w) → after = afterWrite rel lo h hi before v
          | .mode set =>
            (ilk.mode = s.ilk.mode → after = before) ∧
            (ilk.mode ≠ s.ilk.mode → after = if set.getLsbD (modeCode ilk.mode) then .tt else .ff)
          | .drive d set =>
            (c ≠ .ilkDriveStateChange d → after = before) ∧
            (c = .ilkDriveStateChange d → after = if set.getLsbD (driveCode (s.chan d).state) then .tt else .ff)
          | .band k set =>
            (c ≠ .ilkBandChange k → after = before) ∧
            (c = .ilkBandChange k → after =
              if set.getLsbD (bandCode (s.tnk.tank k).band) then .tt
              else if (s.tnk.tank k).band = .unknown then .unknown else .ff)
          | .supply v =>
            (c ≠ .ilkSupplyChange → after = before) ∧
            (c = .ilkSupplyChange → after = if s.tnk.supply = v then .tt else .ff)
          | .term _ => True) ∧
  ∀ (results : Vector Tri 24) (m : Tri),
    (∀ t, condResult results m (.term t) = results.get t) ∧
    ∀ c, (∀ t, c ≠ .term t) → condResult results m c = m

/-- The combiners ALL and ANY. What they combine for a VALID term: in list order, for each of its conditions and for nothing
else, the result that the condition holds, or for a TERM condition the named term's result; at most four. A term that is not
VALID is FALSE, and none of its conditions is evaluated. -/
def Obligations.CombinersOfTerms : Prop :=
  (∀ rs : List Tri,
    (combineAll rs = .tt ↔ ∀ r ∈ rs, r = .tt) ∧
    (combineAll rs = .unknown ↔ (∀ r ∈ rs, r ≠ .ff) ∧ ∃ r ∈ rs, r = .unknown) ∧
    (combineAll rs = .ff ↔ ∃ r ∈ rs, r = .ff) ∧
    (combineAny rs = .tt ↔ ∃ r ∈ rs, r = .tt) ∧
    (combineAny rs = .unknown ↔ (∀ r ∈ rs, r ≠ .tt) ∧ ∃ r ∈ rs, r = .unknown) ∧
    (combineAny rs = .ff ↔ ∀ r ∈ rs, r = .ff)) ∧
  ∀ (s : State) (results : Vector Tri 24) (t : Fin 24),
    (isValid (s.active.itt.get t) = true → ittAny (s.active.itt.get t) = false →
      termResult s results t = combineAll (condResults s results t)) ∧
    (isValid (s.active.itt.get t) = true → ittAny (s.active.itt.get t) = true →
      termResult s results t = combineAny (condResults s results t)) ∧
    (isValid (s.active.itt.get t) = false → termResult s results t = .ff ∧ s.active.conds t = []) ∧
    (condResults s results t).length = (s.active.conds t).length ∧ (s.active.conds t).length ≤ 4 ∧
    ∀ (j : Fin 4) (c : Cond), (s.active.conds t)[j.val]? = some c →
      (condResults s results t)[j.val]? = some (match c with
        | .term u => results.get u
        | .signal _ _ _ _ _ | .mode _ | .drive _ _ | .band _ _ | .supply _ => (s.ilk.mem.get t).get j)

/-- The four takings of ILK change ILK's state and the deliveries alone. After each, every term has the result that the results
held by its conditions and those of the terms it names give it; so a term that had that result before, and whose conditions
and named terms keep theirs, keeps its own. A change of mode goes to CSU, an entry to CONFLICT raises MODE_CONFLICT,
and a rise or a fall is delivered, in index order, to FRE and DRV for each term that became or ceased to be TRUE. TERM
conditions name lower terms, as every set of tables that becomes active has it. The model's choices: a condition which the event
reaches holds its owner's state as it stands, and not as delivered (log 13); the mode change is delivered before MODE_CONFLICT,
both before the rises and falls, and each of these to FRE before DRV (log 29). -/
def Obligations.TermsSettleInOneTaking : Prop :=
  ∀ (s : State) (c : Instr), Running s →
    ((∃ e, c = .ilkSlotEvent e) ∨ (∃ d, c = .ilkDriveStateChange d) ∨ (∃ k, c = .ilkBandChange k) ∨
      c = .ilkSupplyChange) →
    (∀ t j : Fin 24, Cond.term j ∈ s.active.conds t → j < t) →
      ∃ ilk ob, exec c s = .next { s with ilk := ilk, outbox := ob } ∧
        (∀ t, ilk.terms.get t = termResult { s with ilk := ilk } ilk.terms t) ∧
        (∀ t, s.ilk.terms.get t = termResult s s.ilk.terms t → ilk.mem.get t = s.ilk.mem.get t →
          (∀ j, Cond.term j ∈ s.active.conds t → ilk.terms.get j = s.ilk.terms.get j) →
            ilk.terms.get t = s.ilk.terms.get t) ∧
        ((∀ e, c ≠ .ilkSlotEvent e) → ilk.stopped = s.ilk.stopped) ∧
        ob = (s.taken c).outbox ++
          (if ilk.mode = s.ilk.mode then [] else .csuInputDelivery (.mode ilk.mode) ::
            (if ilk.mode = .conflict then [.exceptionRaise { cls := .modeConflict, mode := .conflict }] else [])) ++
          (List.finRange 24).flatMap fun t =>
            if s.ilk.terms.get t ≠ .tt ∧ ilk.terms.get t = .tt then [.termRiseAtFre t, .permitTermRise t]
            else if s.ilk.terms.get t = .tt ∧ ilk.terms.get t ≠ .tt then [.termFallAtFre t, .permitTermFall t]
            else []

/-- At a slot event of ROAD_SPEED or PARK_BRAKE, and at a state change of MAIN or ROLL, the STOPPED latch and then the mode are
taken: the latch from a written or stale speed, the mode by its table from the drives, latch, brake and speed. The other
events leave latch and mode. -/
def Obligations.ModeFollowsItsTable : Prop :=
  ∀ (s : State) (c : Instr), Running s →
    let bound := fun e : SlotEvent => s.active.role .roadSpeed = some e.slot ∨ s.active.role .parkBrake = some e.slot
    (((∃ e, c = .ilkSlotEvent e ∧ bound e) ∨ c = .ilkDriveStateChange .main ∨ c = .ilkDriveStateChange .roll) →
      ∃ ilk ob, exec c s = .next { s with ilk := ilk, outbox := ob } ∧
        (∀ v old fr w, ∀ i, c = .ilkSlotEvent (.written i v old fr w) → s.active.role .roadSpeed = some i →
          ilk.stopped = (decide (v.toNat ≤ s.active.param 9) ||
            (s.ilk.stopped && decide (v.toNat ≤ s.active.param 9 + s.active.param 10)))) ∧
        (∀ v i, c = .ilkSlotEvent (.stale i v) → s.active.role .roadSpeed = some i → ilk.stopped = false) ∧
        ((∀ e, c = .ilkSlotEvent e → s.active.role .roadSpeed ≠ some e.slot) → ilk.stopped = s.ilk.stopped) ∧
        (let main := s.drv.main.state ≠ .disengaged
         let roll := s.drv.roll.state ≠ .disengaged
         let parked := ilk.stopped = true ∧ (s.roleSlot .parkBrake).fresh = .fresh ∧ (s.roleSlot .parkBrake).value ≠ 0
         let fast := (s.roleSlot .roadSpeed).fresh ≠ .fresh ∨ s.active.param 11 < (s.roleSlot .roadSpeed).value.toNat
         (main → roll → ilk.mode = .conflict) ∧ (main → ¬roll → parked → ilk.mode = .pumpStatic) ∧
         (main → ¬roll → ¬parked → ilk.mode = .conflict) ∧ (¬main → roll → ¬fast → ilk.mode = .pumpRoll) ∧
         (¬main → roll → fast → ilk.mode = .conflict) ∧ (¬main → ¬roll → parked → ilk.mode = .parked) ∧
         (¬main → ¬roll → ¬parked → ilk.mode = .road))) ∧
    (((∃ e, c = .ilkSlotEvent e ∧ ¬bound e) ∨ c = .ilkDriveStateChange .aux ∨ (∃ k, c = .ilkBandChange k) ∨
      c = .ilkSupplyChange) →
      ∃ ilk ob, exec c s = .next { s with ilk := ilk, outbox := ob } ∧
        ilk.mode = s.ilk.mode ∧ ilk.stopped = s.ilk.stopped)

/-! Drive channels. -/

/-- A channel takes a new context: its line is on exactly in SHIFTING, VERIFYING and ENGAGED, and a change of state goes to
ILK, CSU and TNK, in this order by the model's choice (log 29). -/
def Obligations.ChannelStateAndLine : Prop :=
  ∀ (s : State) (c : Channel) (r : ChannelRec),
    let u := (s.setChan c r).setLine c (decide (r.state = .shifting ∨ r.state = .verifying ∨ r.state = .engaged))
    (r.state = (s.chan c).state → enter s c r = u) ∧
    (r.state ≠ (s.chan c).state → enter s c r =
      u.post [.ilkDriveStateChange c, .csuInputDelivery (.drive c r.state), .tnkDriveStateChange c r.state])

/-- An engage request: in DISENGAGED refused CONFLICT, EXCLUSIVE or NOT_PERMITTED, in that order, or accepted; satisfied in
SHIFTING, VERIFYING and ENGAGED; BUSY in RELEASING and FAULTED. A refusal raises ENGAGE_REFUSED and, but in FAULTED, is the
last outcome. -/
def Obligations.EngageRequestsAreChecked : Prop :=
  ∀ (s : State) (c : Channel) (o : Origin),
    let r := s.chan c
    let d := s.active.drive c
    let raised : RefuseReason → Option (Fin 24) → Raise := fun why t =>
      { cls := .engageRefused, mode := s.ilk.mode, channel := some c, term := t,
        reason := some (match why with
          | .notPermitted => .notPermitted
          | .exclusive => .exclusive
          | .conflict => .conflict
          | .busy => .busy) }
    let noted := fun why => s.setChan c { r with outcome := some (.refused why) }
    let partner := (c = .main ∧ s.drv.roll.state ≠ .disengaged) ∨ (c = .roll ∧ s.drv.main.state ≠ .disengaged)
    let permit := ∃ t, d.permit = some t ∧ s.ilk.terms.get t = .tt
    (r.state = .disengaged →
      (s.ilk.mode = .conflict → engage s c o = ((noted .conflict).raise (raised .conflict none), .refused .conflict)) ∧
      (s.ilk.mode ≠ .conflict → partner →
        engage s c o = ((noted .exclusive).raise (raised .exclusive none), .refused .exclusive)) ∧
      (s.ilk.mode ≠ .conflict → ¬partner → ¬permit →
        engage s c o = ((noted .notPermitted).raise (raised .notPermitted d.permit), .refused .notPermitted)) ∧
      (s.ilk.mode ≠ .conflict → ¬partner → permit →
        engage s c o = (enter s c { r with
          state := .shifting, timer := some (.settle, s.now + d.settle), origin := some o }, .ok))) ∧
    (r.state = .shifting ∨ r.state = .verifying ∨ r.state = .engaged → engage s c o = (s, .ok)) ∧
    (r.state = .releasing → engage s c o = ((noted .busy).raise (raised .busy none), .busy)) ∧
    (r.state = .faulted → engage s c o = (s.raise (raised .busy none), .busy))

/-- A slot event at DRV: the channels in the order MAIN, ROLL, AUX, each first the request of its REQ role, then its checks. A
disengage request releases a channel in SHIFTING, VERIFYING or ENGAGED, leaves it in every other state, and its result is OK in
every state.
VERIFYING becomes ENGAGED at a write of a check slot with every check holding, ENGAGED becomes FAULTED at a write of another
level to the confirm slot. The model's choices: the checks are examined on the slots as they stand at this taking, be they written
again since the event (log 39); a change of state is delivered before its raise (log 29). -/
def Obligations.SlotEventsAtTheDrives : Prop :=
  (∀ (s : State) (e : SlotEvent), Running s →
    exec (.drvSlotEvent e) s =
      .next (channelSlot e (channelSlot e (channelSlot e (s.taken (.drvSlotEvent e)) .main) .roll) .aux)) ∧
  ∀ (s : State) (c : Channel) (e : SlotEvent),
    let d := s.active.drive c
    let asked := s.active.role (reqRole c) = some e.slot
    channelSlot e s c = channelCheck e (channelRequest e s c) c ∧
    (¬asked ∨ (∃ i v, e = .stale i v) → channelRequest e s c = s) ∧
    (∀ i v before fr w, e = .written i v before fr w → asked →
      (before = 0 → v ≠ 0 → channelRequest e s c = (engage s c .signal).1) ∧
      (before ≠ 0 → v = 0 → channelRequest e s c = (disengage s c).1) ∧
      ((before = 0 ↔ v = 0) → channelRequest e s c = s)) ∧
    ((s.chan c).state = .shifting ∨ (s.chan c).state = .verifying ∨ (s.chan c).state = .engaged →
      (disengage s c).1 = enter s c { s.chan c with
        state := .releasing, timer := some (.release, s.now + d.release), outcome := some (.aborted .disengage) }) ∧
    ((s.chan c).state = .disengaged ∨ (s.chan c).state = .releasing ∨ (s.chan c).state = .faulted →
      (disengage s c).1 = s) ∧
    (disengage s c).2 = .ok ∧
    (∀ i v, e = .stale i v → channelCheck e s c = s) ∧
    ((s.chan c).state ≠ .verifying → (s.chan c).state ≠ .engaged → channelCheck e s c = s) ∧
    ∀ i v before fr w, e = .written i v before fr w →
      let check := d.confirm = some i ∨ ∃ a b, d.speeds = some (a, b) ∧ (a = i ∨ b = i)
      ((s.chan c).state = .verifying → check → confirmHolds s d = true → ratioHolds s d = true →
        channelCheck e s c = enter s c { s.chan c with state := .engaged, timer := none, outcome := some .engaged }) ∧
      ((s.chan c).state = .verifying → ¬check ∨ confirmHolds s d = false ∨ ratioHolds s d = false →
        channelCheck e s c = s) ∧
      ((s.chan c).state = .engaged → d.confirm = some i → v.toNat ≠ d.level →
        channelCheck e s c = (enter s c { s.chan c with
          state := .faulted, timer := none, outcome := some (.failed .confirmLost) }).raise
            { cls := .engageLost, mode := s.ilk.mode, channel := some c }) ∧
      ((s.chan c).state = .engaged → d.confirm ≠ some i ∨ v.toNat = d.level → channelCheck e s c = s)

/-- The ratio check: both speed slots FRESH, input above 0, output times 256 between low and high times input, products exact;
no speed slots, no check. -/
def Obligations.RatioCheckIsExact : Prop :=
  ∀ (s : State) (d : DriveCfg),
    (d.speeds = none → ratioHolds s d = true) ∧
    ∀ a b, d.speeds = some (a, b) →
      let i := (s.slot a).value.toNat
      let o := (s.slot b).value.toNat
      (ratioHolds s d = true ↔
        (s.slot a).fresh = .fresh ∧ (s.slot b).fresh = .fresh ∧ 0 < i ∧ d.low * i ≤ o * 256 ∧ o * 256 ≤ d.high * i)

/-- A rise of a permit term leaves every channel as it is; what has risen is read by check 3 of the next engage request. -/
def Obligations.PermitRiseLeavesChannels : Prop :=
  ∀ (s : State) (t : Fin 24), Running s →
    exec (.permitTermRise t) s = .next (s.taken (.permitTermRise t)) ∧
    (s.taken (.permitTermRise t)).drv = s.drv ∧
    ∀ c, permitted s c = true ↔ ∃ u, (s.active.drive c).permit = some u ∧ s.ilk.terms.get u = .tt

/-- A fall of a permit term, a supervision lapse and a run-dry request: which channels they release, and PERMIT_LOST. That a
channel ENGAGED under policy HOLD raises PERMIT_LOST at every fall of its permit, a second one included, is the model's reading
(log 27), and that a change of state is delivered before its PERMIT_LOST is its choice (log 29). -/
def Obligations.LossesReleaseChannels : Prop :=
  (∀ (s : State) (t : Fin 24), Running s →
    exec (.permitTermFall t) s =
      .next (channelFall t (channelFall t (channelFall t (s.taken (.permitTermFall t)) .main) .roll) .aux)) ∧
  (∀ s : State, Running s →
    exec .supervisionLapse s =
      .next (channelLapse (channelLapse (channelLapse (s.taken .supervisionLapse) .main) .roll) .aux)) ∧
  ∀ (s : State) (c : Channel),
    let d := s.active.drive c
    let st := (s.chan c).state
    let released := fun (s : State) why => enter s c { s.chan c with
      state := .releasing, timer := some (.release, s.now + (s.active.drive c).release), outcome := some (.aborted why) }
    (∀ t, d.permit ≠ some t ∨ st = .disengaged ∨ st = .releasing ∨ st = .faulted → channelFall t s c = s) ∧
    (∀ t, d.permit = some t →
      let lost : Raise := { cls := .permitLost, mode := s.ilk.mode, channel := some c, term := some t }
      (st = .shifting ∨ st = .verifying ∨ (st = .engaged ∧ d.releaseOnLoss = true) →
        channelFall t s c = (released s .permitLost).raise lost) ∧
      (st = .engaged → d.releaseOnLoss = false → channelFall t s c = s.raise lost)) ∧
    (st = .shifting ∨ st = .verifying → channelLapse s c = released s .supervision) ∧
    (st ≠ .shifting → st ≠ .verifying → channelLapse s c = s) ∧
    (Running s → st = .engaged →
      exec (.runDryRequest c) s = .next (released (s.taken (.runDryRequest c)) .dryRun)) ∧
    (Running s → st ≠ .engaged → exec (.runDryRequest c) s = .next (s.taken (.runDryRequest c)))

/-- The timers of a channel: settle ends in ENGAGED or VERIFYING, verify in FAULTED with ENGAGE_FAILED, release in DISENGAGED
where there is no confirm switch or it reads disengaged, else in FAULTED with RELEASE_FAILED. The model's choices: the expiry
command brings the clock up to the timer, from which the verify timer starts (log 3); a change of state is delivered before its
raise (log 29). -/
def Obligations.DriveTimersExpire : Prop :=
  ∀ (s : State) (c : Channel) (t : Nat), Running s →
    let d := s.active.drive c
    let u := s.clock t
    let free := d.confirm = none ∨
      ∃ i, d.confirm = some i ∧ (s.slot i).fresh = .fresh ∧ (s.slot i).value.toNat ≠ d.level
    ((s.chan c).state = .shifting → (s.chan c).timer = some (.settle, t) →
      (confirmHolds s d = true → ratioHolds s d = true → exec (.settleExpiry c) s =
        .next (enter u c { s.chan c with state := .engaged, timer := none, outcome := some .engaged })) ∧
      (confirmHolds s d = false ∨ ratioHolds s d = false → exec (.settleExpiry c) s =
        .next (enter u c { s.chan c with state := .verifying, timer := some (.verify, max s.now t + d.verify) }))) ∧
    ((s.chan c).state = .verifying → (s.chan c).timer = some (.verify, t) →
      exec (.verifyExpiry c) s = .next ((enter u c { s.chan c with
        state := .faulted, timer := none, outcome := some (.failed .verifyTimeout) }).raise
          { cls := .engageFailed, mode := s.ilk.mode, channel := some c })) ∧
    ((s.chan c).state = .releasing → (s.chan c).timer = some (.release, t) →
      (free → exec (.releaseExpiry c) s =
        .next (enter u c { s.chan c with state := .disengaged, timer := none, origin := none })) ∧
      (¬free → exec (.releaseExpiry c) s = .next ((enter u c { s.chan c with
        state := .faulted, timer := none, outcome := some (.failed .releaseCheck) }).raise
          { cls := .releaseFailed, mode := s.ilk.mode, channel := some c }))) ∧
    (d.confirm = none → confirmHolds s d = true) ∧
    ∀ i, d.confirm = some i →
      (confirmHolds s d = true ↔ (s.slot i).fresh = .fresh ∧ (s.slot i).value.toNat = d.level)

/-! Tanks and supply. -/

/-- A level sample: the window of the three newest samples, the filtered level, and the sender: GOOD and SUSPECT by agreement
and strikes, FAILED by its agree count, resync of the estimate. -/
def Obligations.LevelSamplesJudgeTheSender : Prop :=
  (∀ a b c : Raw, filtered [] = none ∧ filtered [a] = some a ∧ filtered [a, b] = some b ∧
    ∃ m, filtered [a, b, c] = some m ∧ m ∈ [a, b, c] ∧ 2 ≤ ([a, b, c].countP fun x => x.toNat ≤ m.toNat) ∧
      2 ≤ ([a, b, c].countP fun x => m.toNat ≤ x.toNat)) ∧
  ∀ (c : TankCfg) (filling : Bool) (r : TankRec) (v : Raw), r.window.length ≤ 3 →
    let w := if r.window.length < 3 then r.window ++ [v] else r.window.tail ++ [v]
    let est := r.base.toNat - r.drawn
    ∃ l, filtered w = some l ∧
      let agrees := l.toNat ≤ est + c.limit ∧ est ≤ l.toNat + c.limit
      let out := sample c filling r v
      let synced := { r with window := w, base := l, drawn := 0 }
      (r.sender ≠ .failed → filling = true ∨ (r.sender = .good ∧ r.window = []) → out = synced) ∧
      (r.sender ≠ .failed → filling = false → (r.sender = .suspect ∨ r.window ≠ []) → agrees →
        out = { synced with sender := .good, strikes := 0 }) ∧
      (r.sender = .good → filling = false → r.window ≠ [] → ¬agrees →
        out = { r with window := w, sender := .suspect, strikes := 1 }) ∧
      (r.sender = .suspect → filling = false → ¬agrees → r.strikes < 2 →
        out = { r with window := w, strikes := r.strikes + 1 }) ∧
      (r.sender = .suspect → filling = false → ¬agrees → r.strikes = 2 →
        out = { r with window := w, sender := .failed, strikes := 3, agree := 0 }) ∧
      (r.sender = .failed → c.flow ≠ none → filling = false → ¬agrees → out = { r with window := w, agree := 0 }) ∧
      (r.sender = .failed → (c.flow = none ∨ (filling = false ∧ agrees)) → r.agree < 2 →
        out = { r with window := w, agree := r.agree + 1 }) ∧
      (r.sender = .failed → (c.flow = none ∨ (filling = false ∧ agrees)) → r.agree = 2 →
        out = { synced with sender := .good, strikes := 0, agree := 0 })

/-- The end of a tank's taking: level source, level in use, and the band, taken anew where level or source changed: UNKNOWN
without level, plain from UNKNOWN and on a fall, with the hysteresis on a rise. -/
def Obligations.BandsFollowTheLevel : Prop :=
  (∀ (t : Tables) (k : Tank) (r : TankRec),
    let c := t.tank k
    let out := settleTank t k r
    (t.inService k = false → out.source = .none ∧ out.level = none) ∧
    (t.inService k = true → r.sender ≠ .failed → out.source = .sender ∧ out.level = filtered r.window) ∧
    (t.inService k = true → r.sender = .failed → c.flow ≠ none →
      out.source = .estimate ∧ out.level = some (BitVec.ofNat 16 (r.base.toNat - r.drawn))) ∧
    (t.inService k = true → r.sender = .failed → c.flow = none → out.source = .none ∧ out.level = none) ∧
    out = { r with source := out.source, level := out.level, band := out.band } ∧
    (out.source = r.source → out.level = r.level → out.band = r.band) ∧
    (¬(out.source = r.source ∧ out.level = r.level) → out.band = bandOf c r.band out.level)) ∧
  ∀ (c : TankCfg) (b : Band) (l : Raw), c.lowAt < c.normalAt → c.normalAt < c.fullAt →
    let n := l.toNat
    let lower := fun b : Band => if b = .low then c.lowAt else if b = .normal then c.normalAt else
      if b = .full then c.fullAt else 0
    let plainly := fun out : Band =>
      (n < c.lowAt → out = .empty) ∧ (c.lowAt ≤ n → n < c.normalAt → out = .low) ∧
      (c.normalAt ≤ n → n < c.fullAt → out = .normal) ∧ (c.fullAt ≤ n → out = .full)
    bandOf c b none = .unknown ∧
    (b = .unknown ∨ n < lower b → plainly (bandOf c b (some l))) ∧
    (b ≠ .unknown → lower b ≤ n →
      (c.fullAt + c.hyst ≤ n → bandOf c b (some l) = .full) ∧
      (n < c.fullAt + c.hyst → b = .full ∨ b = .normal → bandOf c b (some l) = b) ∧
      (n < c.fullAt + c.hyst → c.normalAt + c.hyst ≤ n → b = .empty ∨ b = .low → bandOf c b (some l) = .normal) ∧
      (n < c.normalAt + c.hyst → b = .low → bandOf c b (some l) = .low) ∧
      (n < c.normalAt + c.hyst → c.lowAt + c.hyst ≤ n → b = .empty → bandOf c b (some l) = .low) ∧
      (n < c.lowAt + c.hyst → b = .empty → bandOf c b (some l) = .empty))

/-- A slot event at TNK: tank records, supply, tank valve and fill valve requests in that order, each for the slot bound to its
role, then the end of the taking. An open request is refused where the fill conditions do not hold, of an OPEN valve too
(log 30). -/
def Obligations.SlotEventsAtTheTanks : Prop :=
  (∀ (s : State) (e : SlotEvent), Running s →
    let n1 := tankSlot s.active e (tankSlot s.active e (tankSlot s.active e s.tnk .water) .foamA) .foamB
    let n2 := tankValveEvent s.active e { n1 with supply := supplyAfter s.active e n1.supply }
    exec (.tnkSlotEvent e) s =
      .next (tnkTake (s.taken (.tnkSlotEvent e)) (fillEvent s.active e n2).1 (fillEvent s.active e n2).2)) ∧
  ∀ (t : Tables) (n : TnkRec) (e : SlotEvent),
    (∀ k, t.inService k = false ∨ t.role (tankRole k) ≠ some e.slot → tankSlot t e n k = n) ∧
    (∀ k, t.inService k = true → t.role (tankRole k) = some e.slot →
      (∀ i v, e = .stale i v → tankSlot t e n k =
        n.setTank k (settleTank t k { n.tank k with sender := .failed, agree := 0, window := [] })) ∧
      ∀ i v old fr w, e = .written i v old fr w → tankSlot t e n k =
        n.setTank k (settleTank t k (sample (t.tank k) (decide (k = .water) && n.fillOpen) (n.tank k) v))) ∧
    (∀ before, t.role .intakePressure ≠ some e.slot → supplyAfter t e before = before) ∧
    (∀ before, t.role .intakePressure = some e.slot →
      (∀ i v, e = .stale i v → supplyAfter t e before = .tank) ∧
      ∀ i v old fr w, e = .written i v old fr w →
        (before = .tank → supplyAfter t e before = if t.param 12 ≤ v.toNat then .hydrant else .tank) ∧
        (before = .hydrant → supplyAfter t e before = if v.toNat < t.param 13 then .tank else .hydrant)) ∧
    (t.role .reqTankValve ≠ some e.slot → tankValveEvent t e n = n) ∧
    (t.role .reqFill ≠ some e.slot → fillEvent t e n = (n, false)) ∧
    (∀ i v, e = .stale i v → tankValveEvent t e n = n ∧ fillEvent t e n = (n, false)) ∧
    ∀ i v old fr w, e = .written i v old fr w →
      ((old = 0 ↔ v = 0) → tankValveEvent t e n = n ∧ fillEvent t e n = (n, false)) ∧
      (t.role .reqTankValve = some i →
        (old = 0 → v ≠ 0 → tankValveEvent t e n = { n with tankOpen := true }) ∧
        (old ≠ 0 → v = 0 → tankValveEvent t e n = { n with tankOpen := false })) ∧
      (t.role .reqFill = some i →
        (old = 0 → v ≠ 0 → fillEvent t e n =
          if n.supply = .hydrant ∧ (n.water.band = .empty ∨ n.water.band = .low ∨ n.water.band = .normal) ∧
              n.water.source = .sender then ({ n with fillOpen := true }, false)
          else (n, true)) ∧
        (old ≠ 0 → v = 0 → fillEvent t e n = ({ n with fillOpen := false }, false)))

/-- The end of a taking in TNK: the fill valve closes where its conditions fail, the override, the two lines, the run-dry
condition and its timer follow; nothing else changes. What is raised and delivered, once each and nothing else: SENDER_FAILED
for each sender that became FAILED, FILL_REFUSED for a refused request, each change of a band to ILK, of WATER's to CSU too, and
a change of the supply to both. The model's choices are the tanks' order WATER, FOAM_A, FOAM_B, the raises before the deliveries,
and ILK before CSU (log 29). -/
def Obligations.TakingsOfTnkEnd : Prop :=
  ∀ (s : State) (n : TnkRec) (refused : Bool),
    let drives := fun st : DriveState => st = .shifting ∨ st = .verifying ∨ st = .engaged
    ∃ m ob, tnkTake s n refused =
        { s with tnk := m, outbox := s.outbox ++ ob,
                 outs := { s.outs with tank := m.tankOpen || m.override, fill := m.fillOpen } } ∧
      m = { n with fillOpen := m.fillOpen, override := m.override, dry := m.dry, runDry := m.runDry } ∧
      (m.fillOpen = true ↔ n.fillOpen = true ∧ n.supply = .hydrant ∧
        (n.water.band = .empty ∨ n.water.band = .low ∨ n.water.band = .normal) ∧ n.water.source = .sender) ∧
      (m.override = true ↔ n.supply = .tank ∧ (drives n.heldMain ∨ drives n.heldRoll)) ∧
      (m.dry = true ↔ n.supply = .tank ∧ n.water.band = .empty ∧ (n.heldMain = .engaged ∨ n.heldRoll = .engaged)) ∧
      (m.dry = false → m.runDry = none) ∧
      (m.dry = true → n.dry = true → m.runDry = n.runDry) ∧
      (m.dry = true → n.dry = false → m.runDry = some (s.now + s.active.param 21 * 1000)) ∧
      ob = ([Tank.water, .foamA, .foamB].flatMap fun k =>
          if (s.tnk.tank k).sender ≠ .failed ∧ (n.tank k).sender = .failed then
            [.exceptionRaise { cls := .senderFailed, mode := s.ilk.mode, tank := some k }] else []) ++
        (if refused then [.exceptionRaise { cls := .fillRefused, mode := s.ilk.mode, tank := some .water }] else []) ++
        ([Tank.water, .foamA, .foamB].flatMap fun k =>
          if (s.tnk.tank k).band = (n.tank k).band then []
          else .ilkBandChange k :: if k = .water then [.csuInputDelivery (.waterBand n.water.band)] else []) ++
        (if s.tnk.supply = n.supply then [] else [.ilkSupplyChange, .csuInputDelivery (.supply n.supply)])

/-- A volume unit raises the drawn units of a tank in service by 1, held at the capacity, and level source, level in use and band
follow; a tank not in service takes none. A state change of MAIN or ROLL is held by TNK, of AUX is not, and the taking ends as
every taking does. A run-dry expiry with the timer running leaves it idle, raises DRY_RUN for WATER and requests run-dry of MAIN
and ROLL where TNK holds them ENGAGED. The model's choices: TNK goes by the drive states as last delivered to it (log 14); the
expiry with no timer running does nothing (log 4), and else brings the clock up to the timer (log 3); the raise comes before the
requests (log 29). -/
def Obligations.OtherEventsAtTheTanks : Prop :=
  ∀ s : State, Running s →
    (∀ k, s.active.inService k = true →
      exec (.volumeUnit k) s = .next (tnkTake (s.taken (.volumeUnit k)) (s.tnk.setTank k (settleTank s.active k
        { s.tnk.tank k with
          drawn := if (s.tnk.tank k).drawn < (s.active.tank k).capacity then (s.tnk.tank k).drawn + 1
            else (s.tnk.tank k).drawn })) false)) ∧
    (∀ k, s.active.inService k = false →
      exec (.volumeUnit k) s = .next (tnkTake (s.taken (.volumeUnit k)) s.tnk false)) ∧
    (∀ c st, exec (.tnkDriveStateChange c st) s =
      .next (tnkTake (s.taken (.tnkDriveStateChange c st))
        { s.tnk with
          heldMain := if c = .main then st else s.tnk.heldMain, heldRoll := if c = .roll then st else s.tnk.heldRoll }
        false)) ∧
    (s.tnk.runDry = none → exec .runDryExpiry s = .next s) ∧
    ∀ t, s.tnk.runDry = some t →
      exec .runDryExpiry s = .next (((s.clock t).setTnk { s.tnk with runDry := none }).post
        (.exceptionRaise { cls := .dryRun, mode := s.ilk.mode, tank := some .water } ::
          ((if s.tnk.heldMain = .engaged then [.runDryRequest .main] else []) ++
            (if s.tnk.heldRoll = .engaged then [.runDryRequest .roll] else []))))

/-! Ceilings and supervision. -/

/-- The target ceiling is IDLE_CEIL in the cases of R149; otherwise it is the pumping mode's ceiling, with supply TANK and band
LOW the lesser of it and LOW_TANK_CEIL. -/
def Obligations.TargetCeilingCases : Prop :=
  ∀ (t : Tables) (c : CsuRec),
    let pump := if c.mode = .pumpStatic then t.pumpCeil else t.rollCeil
    let idle := c.mode = .road ∨ c.mode = .parked ∨ c.mode = .conflict ∨ c.sup = .lapsed ∨
      (c.mode = .pumpStatic ∧ c.main ≠ .engaged) ∨ (c.mode = .pumpRoll ∧ c.roll ≠ .engaged) ∨
      (c.supply = .tank ∧ (c.band = .empty ∨ c.band = .unknown))
    (idle → targetOf t c = t.idleCeil) ∧
    (¬idle → ¬(c.supply = .tank ∧ c.band = .low) → targetOf t c = pump) ∧
    (¬idle → c.supply = .tank → c.band = .low →
      targetOf t c = if pump.toNat ≤ t.lowTankCeil.toNat then pump else t.lowTankCeil)

/-- The events CSU takes: held inputs (a mode ROAD disarms supervision), heartbeats, the supervision timer with SUPERVISION_LOST
and the lapse, and the ramp timer, whose step is held at the target. The end of a taking in CSU: a target below the applied
ceiling is applied at once with a ceiling fall, an equal one stops the ramp timer, a higher one starts it where it is idle. The
model's choices: an expiry command brings the clock up to its timer (log 3); SUPERVISION_LOST is raised before the lapse is
delivered, and both stand before a ceiling fall (log 29). -/
def Obligations.CeilingEvents : Prop :=
  (∀ s : State, Running s →
     (∀ d, exec (.csuInputDelivery d) s = .next (csuFinish (s.taken (.csuInputDelivery d)) (match d with
       | .mode m => if m = .road then { s.csu with mode := m, sup := .disarmed, supTimer := none }
           else { s.csu with mode := m }
       | .drive .main st => { s.csu with main := st }
       | .drive .roll st => { s.csu with roll := st }
       | .drive .aux _ => s.csu
       | .supply v => { s.csu with supply := v }
       | .waterBand b => { s.csu with band := b }))) ∧
     (s.csu.mode = .road → s.csu.sup = .disarmed →
       exec .heartbeat s = .next (csuFinish (s.taken .heartbeat) s.csu)) ∧
     (s.csu.mode ≠ .road ∨ s.csu.sup = .armed →
       exec .heartbeat s = .next (csuFinish (s.taken .heartbeat)
         { s.csu with sup := .armed, supTimer := some (s.now + s.active.param 20) })) ∧
     (∀ t, s.csu.sup = .armed → s.csu.supTimer = some t →
       exec .supervisionTimerExpiry s = .next (csuFinish
         ((s.clock t).post [.exceptionRaise { cls := .supervisionLost, mode := s.csu.mode }, .supervisionLapse])
         { s.csu with sup := .lapsed, supTimer := none })) ∧
     ∀ t, s.csu.ramp = some t → s.csu.applied.toNat ≤ s.csu.target.toNat →
       exec .rampExpiry s = .next (csuFinish (s.clock t) { s.csu with
         ramp := none
         applied := BitVec.ofNat 16 (min (s.csu.applied.toNat + s.active.param 18) s.csu.target.toNat) })) ∧
  (∀ (s : State) (c : CsuRec),
     let t := targetOf s.active c
     (t.toNat < c.applied.toNat →
       csuFinish s c = (s.setCsu { c with target := t, applied := t, ramp := none }).post [.ceilingFall]) ∧
     (t = c.applied → csuFinish s c = s.setCsu { c with target := t, ramp := none }) ∧
     (c.applied.toNat < t.toNat →
       csuFinish s c = s.setCsu { c with target := t, ramp := some (c.ramp.getD (s.now + s.active.param 19)) }))

/-! Exceptions. -/

/-- EXC takes a raise: a masked class only sets its flag; an unmasked one sets flag and pending bit, fills the capture record or
sets its further flag, turns summary and OUT_ALARM on, and queues a notice on the report port where the class was not
pending and notices are on. A set's classes are listed by rising number, so the notice names the count of the pending classes and
the two of highest precedence. -/
def Obligations.RaisesAreTakenWhole : Prop :=
  ((∀ set : BitVec 18, (classesIn set).Pairwise (· < ·) ∧
     ∀ n, n ∈ classesIn set ↔ 1 ≤ n ∧ n ≤ 18 ∧ set.getLsbD (n - 1) = true) ∧
   [ExcClass.storeFault, .modeConflict, .supervisionLost, .dryRun, .engageFailed, .engageLost, .releaseFailed, .portOff,
     .senderFailed, .lockout, .staleGate, .permitLost, .engageRefused, .fillRefused, .holdDiscard, .txDiscard, .fieldRange,
     .portWarn].map classNumber = [1, 2, 3, 4, 5, 6, 7, 8, 9, 10, 11, 12, 13, 14, 15, 16, 17, 18] ∧
   ∀ t : Tables, t.mgmtBase.toNat + 2 < 536870912 → (t.mgmtIdent 2).toNat = t.mgmtBase.toNat + 2) ∧
  ∀ (s : State) (r : Raise), Running s →
    let u := s.taken (.exceptionRaise r)
    let bit := BitVec.twoPow 18 (classNumber r.cls - 1)
    let out := exec (.exceptionRaise r) s
    (s.active.mask.getLsbD (classNumber r.cls - 1) = true →
      out = .next (u.setExc { s.exc with flags := s.exc.flags ||| bit })) ∧
    (s.active.mask.getLsbD (classNumber r.cls - 1) = false →
      let v := (u.setExc
        { flags := s.exc.flags ||| bit, pend := s.exc.pend ||| bit, summary := true,
          capture := some (match s.exc.capture with
            | none => { raise := r, further := false }
            | some k => { k with further := true }) }).setOuts { s.outs with alarm := true }
      let quiet := s.exc.pend.getLsbD (classNumber r.cls - 1) = true ∨ s.active.param 23 ≠ 1
      let notice : Frame :=
        { ext := true, ident := s.active.mgmtIdent 2,
          data := [lowByte (classNumber r.cls), 1, lowByte (modeCode r.mode),
            lowByte (classesIn (s.exc.pend ||| bit)).length, lowByte ((classesIn (s.exc.pend ||| bit)).getD 0 0),
            lowByte ((classesIn (s.exc.pend ||| bit)).getD 1 0), 0, 0] }
      (quiet ∨ (s.active.param 4 ≠ 0 ∧ s.active.param 4 ≠ 1) → out = .next v) ∧
      (¬quiet → s.active.param 4 = 0 → out = .next (queuePart v .cp notice)) ∧
      (¬quiet → s.active.param 4 = 1 → out = .next (queuePart v .bp notice)))

/-! Resets and start-up. -/

/-- The four resets and the release complete in every state: what every reset leaves, the reset cause set, supply and reset line,
and when START begins. The model's choices among the clauses: in ResetDone, that active set, both ceilings and the fallback state
are kept, with the shadow set equal to the active set and every level source NONE, and the bit rate before the release (log 7),
that the clock is kept (log 22) and that line levels are (log 8); that POWER_ON and RESET_LINE reset in every phase and
POWER_FAIL leaves the cause set (log 9); that a release with the line high does nothing (log 4); that reception begins at the
release (log 34). -/
def Obligations.ResetsAndTheirRelease : Prop :=
  ∀ s : State,
    let listens := fun t : State => t.cp.since = s.now ∧ t.bp.since = s.now
    (∃ t, exec .powerOn s = .next t ∧ ResetDone s t ∧
      t.sys.causes = { powerOn := true, resetLine := s.sys.resetLow } ∧ t.sys.powered = true ∧
      t.sys.resetLow = s.sys.resetLow ∧
      (s.sys.resetLow = true → t.sys.phase = .reset ∧ t.sys.readAt = none) ∧
      (s.sys.resetLow = false → t.sys.phase = .start ∧ t.sys.readAt = some s.now ∧ listens t)) ∧
    (∃ t, exec .powerFail s = .next t ∧ ResetDone s t ∧ t.sys.powered = false ∧ t.sys.phase = .reset ∧
      t.sys.readAt = none ∧ t.sys.causes = s.sys.causes ∧ t.sys.resetLow = s.sys.resetLow) ∧
    (∃ t, exec .resetLine s = .next t ∧ ResetDone s t ∧ t.sys.phase = .reset ∧ t.sys.readAt = none ∧
      t.sys.resetLow = true ∧ t.sys.powered = s.sys.powered ∧ t.sys.causes = { s.sys.causes with resetLine := true }) ∧
    (ResetDone s (managementReset s) ∧ (managementReset s).sys.phase = .start ∧
      (managementReset s).sys.readAt = some s.now ∧ listens (managementReset s) ∧
      (managementReset s).sys.causes = { s.sys.causes with management := true } ∧
      (managementReset s).sys.powered = s.sys.powered ∧ (managementReset s).sys.resetLow = s.sys.resetLow) ∧
    (s.sys.resetLow = false → exec .resetLineRelease s = .next s) ∧
    (s.sys.resetLow = true → s.sys.powered = false →
      exec .resetLineRelease s = .next (s.setSys { s.sys with resetLow := false })) ∧
    (s.sys.resetLow = true → s.sys.powered = true →
      exec .resetLineRelease s = .next
        { s with sys := { s.sys with resetLow := false, phase := .start, readAt := some s.now }
                 cp := { s.cp with since := s.now }, bp := { s.bp with since := s.now } })

/-- The end of START: a good image becomes active and shadow set, any other gives the fallback configuration, START_FALLBACK,
the fallback state and STORE_FAULT; the ports take their rates and RUN begins, each block by its own rule, with the ceilings
at IDLE_CEIL, the tank records started again with source SENDER where in service, SIGNAL conditions UNKNOWN, every other
condition from its input, and every term as its conditions give it; the terms then TRUE deliver their rises, and STORE_FAULT
follows where the image failed. The clause on the ceilings asks that CSU holds ROAD, as every reset leaves it. The fallback
configuration holds every parameter at its default but UNMATCHED_ACTION DROP and EXCEPTION_MASK 0, EMPTY records, no role
bound and slot records at their defaults, and passes every check. The model's choices: outside START a store read does nothing
(log 4); the timeout brings the clock up to its time (log 3); the blocks' deliveries stand in the order rises, ceiling fall,
STORE_FAULT (log 29). -/
def Obligations.StartUpEnds : Prop :=
  (let a := Tables.fallback
   (∀ i : Fin 24, a.param i = [250, 250, 0x0C5A7E00, 1, 1, 1, 50, 500, 300, 20, 10, 160, 300, 200, 700, 2200, 1200, 1400, 50,
     100, 500, 30, 0, 1].getD i.val 0) ∧
   (∀ e, tagOf (a.frt.get e) = .empty) ∧ (∀ k, tagOf (a.rtt.get k) = .empty) ∧ (∀ i, tagOf (a.itt.get i) = .empty) ∧
   (∀ c, tagOf (a.drives.get c) = .empty) ∧ (∀ k, tagOf (a.tanks.get k) = .empty) ∧ (∀ r, a.role r = none) ∧
   (∀ i, a.staleTime i = 0) ∧ (∀ sw, a.debounce sw = 20 ∧ a.inverted sw = false) ∧
   (∀ pi, a.pulseMode pi = .off ∧ a.window pi = 100 ∧ a.divisor pi = 1 ∧ a.boundTank pi = none) ∧ a.sound = true) ∧
  ∀ s : State,
    (∀ readGood, s.sys.phase ≠ .start →
      exec (.storeReadCompletion readGood) s = .next s ∧ exec .storeReadTimeout s = .next s) ∧
    ∀ since, s.sys.phase = .start → s.sys.readAt = some since →
      let ended := fun (good : Bool) (now : Nat) (t : State) =>
        t.now = now ∧ t.sys.phase = .run ∧ t.sys.readAt = none ∧ t.sys.store = s.sys.store ∧
        t.sys.fallback = !good ∧
        t.sys.causes = (if good then s.sys.causes else { s.sys.causes with startFallback := true }) ∧
        t.active = (if good then s.sys.store.tables else Tables.fallback) ∧
        t.mgt = { shadow := t.active } ∧ t.cp = { s.cp with rate := t.active.param 0 } ∧
        t.bp = { s.bp with rate := t.active.param 1 } ∧
        t.fre = s.fre ∧ t.drv = s.drv ∧ t.exc = s.exc ∧ t.outs = s.outs ∧ t.sig.slots = s.sig.slots ∧
        (∀ sw, (t.sig.switches.get sw).timer = some (now + t.active.debounce sw)) ∧
        (∀ pi, (t.sig.pulses.get pi).windowEnd =
          if t.active.pulseMode pi = .speed then some (now + t.active.window pi) else none) ∧
        TnkBeginsRun s t ∧ IlkBeginsRun s t ∧
        ∃ fall, (fall = [] ∨ fall = [.ceilingFall]) ∧
          (s.csu.mode = .road → fall = [] ∧
            t.csu = { s.csu with target := t.active.idleCeil, applied := t.active.idleCeil, ramp := none }) ∧
          t.outbox = s.outbox ++ termRises t.ilk.terms ++ fall ++
            (if good then [] else [.exceptionRaise { cls := .storeFault, mode := .road }])
      (∀ readGood, ∃ t, exec (.storeReadCompletion readGood) s = .next t ∧
        ended (readGood && decide (s.now ≤ since + 40) && s.sys.store.good) s.now t) ∧
      ∃ t, exec .storeReadTimeout s = .next t ∧ ended false (max s.now (since + 40)) t

/-! Invariants. -/

/-- Every step keeps MAIN and ROLL exclusive. Every step keeps the output lines with the states that drive them. -/
def Obligations.DriveStatesAndLinesStaySound : Prop :=
  (∀ s t : State, DrivesExclusive s → step s = .next t → DrivesExclusive t) ∧
  (∀ s t : State, LinesFollow s → step s = .next t → LinesFollow t)

/-- Every step keeps the shares, fault counts and states of both ports, and the bound of the Hold Buffer with its identifiers
distinct. Every step keeps the applied ceiling at or below the target. -/
def Obligations.QueuesAndCeilingStayBounded : Prop :=
  ((∀ s t : State, PortsSound s → step s = .next t → PortsSound t) ∧
   ∀ s t : State, HoldBound s → step s = .next t → HoldBound t) ∧
  (∀ s t : State, CeilingBound s → step s = .next t → CeilingBound t)

/-- Every step keeps the part held in reset without supply or with the reset line low, every line off and every block at rest
outside RUN, pending classes flagged and unmasked with the summary theirs, and the fill valve under its conditions. -/
def Obligations.RestExceptionsAndFillStaySound : Prop :=
  let rest := fun s => QuietOutsideRun s ∧ HeldInReset s
  (∀ s t : State, rest s → step s = .next t → rest t) ∧
  (∀ s t : State, rest s → ExceptionBits s → step s = .next t → ExceptionBits t) ∧
  ∀ s t : State, rest s → FillGuard s → step s = .next t → FillGuard t

/-- The active tables pass every check in every step; so they hold no REJECTED entry, GATE and HOLD entries name VALID terms, TERM
conditions name lower VALID terms, and at most four VALID templates carry the reissue flag. -/
def Obligations.ActiveTablesStaySound : Prop :=
  (∀ s t : State, ActiveSound s → step s = .next t → ActiveSound t) ∧
  ActiveSound State.reset ∧
  ∀ s : State, ActiveSound s →
    let a := s.active
    (∀ e, tagOf (a.frt.get e) ≠ .rejected) ∧ (∀ k, tagOf (a.rtt.get k) ≠ .rejected) ∧
    (∀ i, tagOf (a.itt.get i) ≠ .rejected) ∧ (∀ c, tagOf (a.drives.get c) ≠ .rejected) ∧
    (∀ k, tagOf (a.tanks.get k) ≠ .rejected) ∧
    (∀ e, isValid (a.frt.get e) = true → frtAction (a.frt.get e) = .gate ∨ frtAction (a.frt.get e) = .hold →
      ∃ j, frtTerm (a.frt.get e) = some j ∧ isValid (a.itt.get j) = true) ∧
    (∀ i j, Cond.term j ∈ a.conds i → j < i ∧ isValid (a.itt.get j) = true) ∧
    ((List.finRange 16).countP fun k => isValid (a.rtt.get k) && rttReissue (a.rtt.get k)) ≤ 4

/-- The invariants hold at reset (logs 6, 7 and 8 name what of the reset state is the model's choice). -/
def Obligations.InvariantsHoldAtReset : Prop :=
  let s := State.reset
  DrivesExclusive s ∧ LinesFollow s ∧ PortsSound s ∧ HoldBound s ∧ CeilingBound s ∧ QuietOutsideRun s ∧ HeldInReset s ∧
    ExceptionBits s ∧ FillGuard s ∧ s.sys.phase = .start ∧ s.sys.causes = { powerOn := true }
end

