-- ==== Sys2Proof/Laws/State.lean ====
section
/-! SUPPORT. Every field of State after every update of it: one lemma per field per update. -/

namespace Sys2Proof.Machine

/-- Reading the place of a vector that was set. -/
theorem get_set_self {α : Type} {n : Nat} (v : Vector α n) (i : Fin n) (x : α) : (v.set i.val x i.isLt).get i = x :=
  Vector.getElem_set_self i.isLt

/-- Reading another place of a vector that was set. -/
theorem get_set_ne {α : Type} {n : Nat} (v : Vector α n) {i j : Fin n} (h : j ≠ i) (x : α) :
    (v.set i.val x i.isLt).get j = v.get j :=
  Vector.getElem_set_ne i.isLt j.isLt (fun e => h (Fin.ext e.symm))

variable (s : State)

/-! post -/

@[simp] theorem post_pending (ds : List Instr) : (s.post ds).pending = s.pending := rfl
@[simp] theorem post_outbox (ds : List Instr) : (s.post ds).outbox = s.outbox ++ ds := rfl
@[simp] theorem post_now (ds : List Instr) : (s.post ds).now = s.now := rfl
@[simp] theorem post_free (ds : List Instr) : (s.post ds).free = s.free := rfl
@[simp] theorem post_sys (ds : List Instr) : (s.post ds).sys = s.sys := rfl
@[simp] theorem post_active (ds : List Instr) : (s.post ds).active = s.active := rfl
@[simp] theorem post_mgt (ds : List Instr) : (s.post ds).mgt = s.mgt := rfl
@[simp] theorem post_cp (ds : List Instr) : (s.post ds).cp = s.cp := rfl
@[simp] theorem post_bp (ds : List Instr) : (s.post ds).bp = s.bp := rfl
@[simp] theorem post_fre (ds : List Instr) : (s.post ds).fre = s.fre := rfl
@[simp] theorem post_sig (ds : List Instr) : (s.post ds).sig = s.sig := rfl
@[simp] theorem post_ilk (ds : List Instr) : (s.post ds).ilk = s.ilk := rfl
@[simp] theorem post_drv (ds : List Instr) : (s.post ds).drv = s.drv := rfl
@[simp] theorem post_tnk (ds : List Instr) : (s.post ds).tnk = s.tnk := rfl
@[simp] theorem post_csu (ds : List Instr) : (s.post ds).csu = s.csu := rfl
@[simp] theorem post_exc (ds : List Instr) : (s.post ds).exc = s.exc := rfl
@[simp] theorem post_outs (ds : List Instr) : (s.post ds).outs = s.outs := rfl

/-! raise -/

@[simp] theorem raise_pending (r : Raise) : (s.raise r).pending = s.pending := rfl
@[simp] theorem raise_outbox (r : Raise) : (s.raise r).outbox = s.outbox ++ [.exceptionRaise r] := rfl
@[simp] theorem raise_now (r : Raise) : (s.raise r).now = s.now := rfl
@[simp] theorem raise_free (r : Raise) : (s.raise r).free = s.free := rfl
@[simp] theorem raise_sys (r : Raise) : (s.raise r).sys = s.sys := rfl
@[simp] theorem raise_active (r : Raise) : (s.raise r).active = s.active := rfl
@[simp] theorem raise_mgt (r : Raise) : (s.raise r).mgt = s.mgt := rfl
@[simp] theorem raise_cp (r : Raise) : (s.raise r).cp = s.cp := rfl
@[simp] theorem raise_bp (r : Raise) : (s.raise r).bp = s.bp := rfl
@[simp] theorem raise_fre (r : Raise) : (s.raise r).fre = s.fre := rfl
@[simp] theorem raise_sig (r : Raise) : (s.raise r).sig = s.sig := rfl
@[simp] theorem raise_ilk (r : Raise) : (s.raise r).ilk = s.ilk := rfl
@[simp] theorem raise_drv (r : Raise) : (s.raise r).drv = s.drv := rfl
@[simp] theorem raise_tnk (r : Raise) : (s.raise r).tnk = s.tnk := rfl
@[simp] theorem raise_csu (r : Raise) : (s.raise r).csu = s.csu := rfl
@[simp] theorem raise_exc (r : Raise) : (s.raise r).exc = s.exc := rfl
@[simp] theorem raise_outs (r : Raise) : (s.raise r).outs = s.outs := rfl

/-! taken -/

@[simp] theorem taken_pending (d : Instr) : (s.taken d).pending = s.pending := rfl
@[simp] theorem taken_outbox (d : Instr) : (s.taken d).outbox = s.outbox.erase d := rfl
@[simp] theorem taken_now (d : Instr) : (s.taken d).now = s.now := rfl
@[simp] theorem taken_free (d : Instr) : (s.taken d).free = s.free := rfl
@[simp] theorem taken_sys (d : Instr) : (s.taken d).sys = s.sys := rfl
@[simp] theorem taken_active (d : Instr) : (s.taken d).active = s.active := rfl
@[simp] theorem taken_mgt (d : Instr) : (s.taken d).mgt = s.mgt := rfl
@[simp] theorem taken_cp (d : Instr) : (s.taken d).cp = s.cp := rfl
@[simp] theorem taken_bp (d : Instr) : (s.taken d).bp = s.bp := rfl
@[simp] theorem taken_fre (d : Instr) : (s.taken d).fre = s.fre := rfl
@[simp] theorem taken_sig (d : Instr) : (s.taken d).sig = s.sig := rfl
@[simp] theorem taken_ilk (d : Instr) : (s.taken d).ilk = s.ilk := rfl
@[simp] theorem taken_drv (d : Instr) : (s.taken d).drv = s.drv := rfl
@[simp] theorem taken_tnk (d : Instr) : (s.taken d).tnk = s.tnk := rfl
@[simp] theorem taken_csu (d : Instr) : (s.taken d).csu = s.csu := rfl
@[simp] theorem taken_exc (d : Instr) : (s.taken d).exc = s.exc := rfl
@[simp] theorem taken_outs (d : Instr) : (s.taken d).outs = s.outs := rfl

/-! clock -/

@[simp] theorem clock_pending (t : Nat) : (s.clock t).pending = s.pending := rfl
@[simp] theorem clock_outbox (t : Nat) : (s.clock t).outbox = s.outbox := rfl
@[simp] theorem clock_now (t : Nat) : (s.clock t).now = max s.now t := rfl
@[simp] theorem clock_free (t : Nat) : (s.clock t).free = s.free := rfl
@[simp] theorem clock_sys (t : Nat) : (s.clock t).sys = s.sys := rfl
@[simp] theorem clock_active (t : Nat) : (s.clock t).active = s.active := rfl
@[simp] theorem clock_mgt (t : Nat) : (s.clock t).mgt = s.mgt := rfl
@[simp] theorem clock_cp (t : Nat) : (s.clock t).cp = s.cp := rfl
@[simp] theorem clock_bp (t : Nat) : (s.clock t).bp = s.bp := rfl
@[simp] theorem clock_fre (t : Nat) : (s.clock t).fre = s.fre := rfl
@[simp] theorem clock_sig (t : Nat) : (s.clock t).sig = s.sig := rfl
@[simp] theorem clock_ilk (t : Nat) : (s.clock t).ilk = s.ilk := rfl
@[simp] theorem clock_drv (t : Nat) : (s.clock t).drv = s.drv := rfl
@[simp] theorem clock_tnk (t : Nat) : (s.clock t).tnk = s.tnk := rfl
@[simp] theorem clock_csu (t : Nat) : (s.clock t).csu = s.csu := rfl
@[simp] theorem clock_exc (t : Nat) : (s.clock t).exc = s.exc := rfl
@[simp] theorem clock_outs (t : Nat) : (s.clock t).outs = s.outs := rfl

/-! drawn -/

@[simp] theorem drawn_pending : (s.drawn).pending = s.pending := rfl
@[simp] theorem drawn_outbox : (s.drawn).outbox = s.outbox := rfl
@[simp] theorem drawn_now : (s.drawn).now = s.now := rfl
@[simp] theorem drawn_free : (s.drawn).free = s.free + 1 := rfl
@[simp] theorem drawn_sys : (s.drawn).sys = s.sys := rfl
@[simp] theorem drawn_active : (s.drawn).active = s.active := rfl
@[simp] theorem drawn_mgt : (s.drawn).mgt = s.mgt := rfl
@[simp] theorem drawn_cp : (s.drawn).cp = s.cp := rfl
@[simp] theorem drawn_bp : (s.drawn).bp = s.bp := rfl
@[simp] theorem drawn_fre : (s.drawn).fre = s.fre := rfl
@[simp] theorem drawn_sig : (s.drawn).sig = s.sig := rfl
@[simp] theorem drawn_ilk : (s.drawn).ilk = s.ilk := rfl
@[simp] theorem drawn_drv : (s.drawn).drv = s.drv := rfl
@[simp] theorem drawn_tnk : (s.drawn).tnk = s.tnk := rfl
@[simp] theorem drawn_csu : (s.drawn).csu = s.csu := rfl
@[simp] theorem drawn_exc : (s.drawn).exc = s.exc := rfl
@[simp] theorem drawn_outs : (s.drawn).outs = s.outs := rfl

/-! tick -/

@[simp] theorem tick_pending : (s.tick).pending = s.pending := rfl
@[simp] theorem tick_outbox : (s.tick).outbox = s.outbox := rfl
@[simp] theorem tick_now : (s.tick).now = s.now + 1 := rfl
@[simp] theorem tick_free : (s.tick).free = s.free := rfl
@[simp] theorem tick_sys : (s.tick).sys = s.sys := rfl
@[simp] theorem tick_active : (s.tick).active = s.active := rfl
@[simp] theorem tick_mgt : (s.tick).mgt = s.mgt := rfl
@[simp] theorem tick_cp : (s.tick).cp = s.cp := rfl
@[simp] theorem tick_bp : (s.tick).bp = s.bp := rfl
@[simp] theorem tick_fre : (s.tick).fre = s.fre := rfl
@[simp] theorem tick_sig : (s.tick).sig = s.sig := rfl
@[simp] theorem tick_ilk : (s.tick).ilk = s.ilk := rfl
@[simp] theorem tick_drv : (s.tick).drv = s.drv := rfl
@[simp] theorem tick_tnk : (s.tick).tnk = s.tnk := rfl
@[simp] theorem tick_csu : (s.tick).csu = s.csu := rfl
@[simp] theorem tick_exc : (s.tick).exc = s.exc := rfl
@[simp] theorem tick_outs : (s.tick).outs = s.outs := rfl

/-! setOutbox -/

@[simp] theorem setOutbox_pending (ds : List Instr) : (s.setOutbox ds).pending = s.pending := rfl
@[simp] theorem setOutbox_outbox (ds : List Instr) : (s.setOutbox ds).outbox = ds := rfl
@[simp] theorem setOutbox_now (ds : List Instr) : (s.setOutbox ds).now = s.now := rfl
@[simp] theorem setOutbox_free (ds : List Instr) : (s.setOutbox ds).free = s.free := rfl
@[simp] theorem setOutbox_sys (ds : List Instr) : (s.setOutbox ds).sys = s.sys := rfl
@[simp] theorem setOutbox_active (ds : List Instr) : (s.setOutbox ds).active = s.active := rfl
@[simp] theorem setOutbox_mgt (ds : List Instr) : (s.setOutbox ds).mgt = s.mgt := rfl
@[simp] theorem setOutbox_cp (ds : List Instr) : (s.setOutbox ds).cp = s.cp := rfl
@[simp] theorem setOutbox_bp (ds : List Instr) : (s.setOutbox ds).bp = s.bp := rfl
@[simp] theorem setOutbox_fre (ds : List Instr) : (s.setOutbox ds).fre = s.fre := rfl
@[simp] theorem setOutbox_sig (ds : List Instr) : (s.setOutbox ds).sig = s.sig := rfl
@[simp] theorem setOutbox_ilk (ds : List Instr) : (s.setOutbox ds).ilk = s.ilk := rfl
@[simp] theorem setOutbox_drv (ds : List Instr) : (s.setOutbox ds).drv = s.drv := rfl
@[simp] theorem setOutbox_tnk (ds : List Instr) : (s.setOutbox ds).tnk = s.tnk := rfl
@[simp] theorem setOutbox_csu (ds : List Instr) : (s.setOutbox ds).csu = s.csu := rfl
@[simp] theorem setOutbox_exc (ds : List Instr) : (s.setOutbox ds).exc = s.exc := rfl
@[simp] theorem setOutbox_outs (ds : List Instr) : (s.setOutbox ds).outs = s.outs := rfl

/-! setSys -/

@[simp] theorem setSys_pending (r : SysRec) : (s.setSys r).pending = s.pending := rfl
@[simp] theorem setSys_outbox (r : SysRec) : (s.setSys r).outbox = s.outbox := rfl
@[simp] theorem setSys_now (r : SysRec) : (s.setSys r).now = s.now := rfl
@[simp] theorem setSys_free (r : SysRec) : (s.setSys r).free = s.free := rfl
@[simp] theorem setSys_sys (r : SysRec) : (s.setSys r).sys = r := rfl
@[simp] theorem setSys_active (r : SysRec) : (s.setSys r).active = s.active := rfl
@[simp] theorem setSys_mgt (r : SysRec) : (s.setSys r).mgt = s.mgt := rfl
@[simp] theorem setSys_cp (r : SysRec) : (s.setSys r).cp = s.cp := rfl
@[simp] theorem setSys_bp (r : SysRec) : (s.setSys r).bp = s.bp := rfl
@[simp] theorem setSys_fre (r : SysRec) : (s.setSys r).fre = s.fre := rfl
@[simp] theorem setSys_sig (r : SysRec) : (s.setSys r).sig = s.sig := rfl
@[simp] theorem setSys_ilk (r : SysRec) : (s.setSys r).ilk = s.ilk := rfl
@[simp] theorem setSys_drv (r : SysRec) : (s.setSys r).drv = s.drv := rfl
@[simp] theorem setSys_tnk (r : SysRec) : (s.setSys r).tnk = s.tnk := rfl
@[simp] theorem setSys_csu (r : SysRec) : (s.setSys r).csu = s.csu := rfl
@[simp] theorem setSys_exc (r : SysRec) : (s.setSys r).exc = s.exc := rfl
@[simp] theorem setSys_outs (r : SysRec) : (s.setSys r).outs = s.outs := rfl

/-! setActive -/

@[simp] theorem setActive_pending (t : Tables) : (s.setActive t).pending = s.pending := rfl
@[simp] theorem setActive_outbox (t : Tables) : (s.setActive t).outbox = s.outbox := rfl
@[simp] theorem setActive_now (t : Tables) : (s.setActive t).now = s.now := rfl
@[simp] theorem setActive_free (t : Tables) : (s.setActive t).free = s.free := rfl
@[simp] theorem setActive_sys (t : Tables) : (s.setActive t).sys = s.sys := rfl
@[simp] theorem setActive_active (t : Tables) : (s.setActive t).active = t := rfl
@[simp] theorem setActive_mgt (t : Tables) : (s.setActive t).mgt = s.mgt := rfl
@[simp] theorem setActive_cp (t : Tables) : (s.setActive t).cp = s.cp := rfl
@[simp] theorem setActive_bp (t : Tables) : (s.setActive t).bp = s.bp := rfl
@[simp] theorem setActive_fre (t : Tables) : (s.setActive t).fre = s.fre := rfl
@[simp] theorem setActive_sig (t : Tables) : (s.setActive t).sig = s.sig := rfl
@[simp] theorem setActive_ilk (t : Tables) : (s.setActive t).ilk = s.ilk := rfl
@[simp] theorem setActive_drv (t : Tables) : (s.setActive t).drv = s.drv := rfl
@[simp] theorem setActive_tnk (t : Tables) : (s.setActive t).tnk = s.tnk := rfl
@[simp] theorem setActive_csu (t : Tables) : (s.setActive t).csu = s.csu := rfl
@[simp] theorem setActive_exc (t : Tables) : (s.setActive t).exc = s.exc := rfl
@[simp] theorem setActive_outs (t : Tables) : (s.setActive t).outs = s.outs := rfl

/-! setMgt -/

@[simp] theorem setMgt_pending (r : MgtRec) : (s.setMgt r).pending = s.pending := rfl
@[simp] theorem setMgt_outbox (r : MgtRec) : (s.setMgt r).outbox = s.outbox := rfl
@[simp] theorem setMgt_now (r : MgtRec) : (s.setMgt r).now = s.now := rfl
@[simp] theorem setMgt_free (r : MgtRec) : (s.setMgt r).free = s.free := rfl
@[simp] theorem setMgt_sys (r : MgtRec) : (s.setMgt r).sys = s.sys := rfl
@[simp] theorem setMgt_active (r : MgtRec) : (s.setMgt r).active = s.active := rfl
@[simp] theorem setMgt_mgt (r : MgtRec) : (s.setMgt r).mgt = r := rfl
@[simp] theorem setMgt_cp (r : MgtRec) : (s.setMgt r).cp = s.cp := rfl
@[simp] theorem setMgt_bp (r : MgtRec) : (s.setMgt r).bp = s.bp := rfl
@[simp] theorem setMgt_fre (r : MgtRec) : (s.setMgt r).fre = s.fre := rfl
@[simp] theorem setMgt_sig (r : MgtRec) : (s.setMgt r).sig = s.sig := rfl
@[simp] theorem setMgt_ilk (r : MgtRec) : (s.setMgt r).ilk = s.ilk := rfl
@[simp] theorem setMgt_drv (r : MgtRec) : (s.setMgt r).drv = s.drv := rfl
@[simp] theorem setMgt_tnk (r : MgtRec) : (s.setMgt r).tnk = s.tnk := rfl
@[simp] theorem setMgt_csu (r : MgtRec) : (s.setMgt r).csu = s.csu := rfl
@[simp] theorem setMgt_exc (r : MgtRec) : (s.setMgt r).exc = s.exc := rfl
@[simp] theorem setMgt_outs (r : MgtRec) : (s.setMgt r).outs = s.outs := rfl

/-! setFre -/

@[simp] theorem setFre_pending (r : FreRec) : (s.setFre r).pending = s.pending := rfl
@[simp] theorem setFre_outbox (r : FreRec) : (s.setFre r).outbox = s.outbox := rfl
@[simp] theorem setFre_now (r : FreRec) : (s.setFre r).now = s.now := rfl
@[simp] theorem setFre_free (r : FreRec) : (s.setFre r).free = s.free := rfl
@[simp] theorem setFre_sys (r : FreRec) : (s.setFre r).sys = s.sys := rfl
@[simp] theorem setFre_active (r : FreRec) : (s.setFre r).active = s.active := rfl
@[simp] theorem setFre_mgt (r : FreRec) : (s.setFre r).mgt = s.mgt := rfl
@[simp] theorem setFre_cp (r : FreRec) : (s.setFre r).cp = s.cp := rfl
@[simp] theorem setFre_bp (r : FreRec) : (s.setFre r).bp = s.bp := rfl
@[simp] theorem setFre_fre (r : FreRec) : (s.setFre r).fre = r := rfl
@[simp] theorem setFre_sig (r : FreRec) : (s.setFre r).sig = s.sig := rfl
@[simp] theorem setFre_ilk (r : FreRec) : (s.setFre r).ilk = s.ilk := rfl
@[simp] theorem setFre_drv (r : FreRec) : (s.setFre r).drv = s.drv := rfl
@[simp] theorem setFre_tnk (r : FreRec) : (s.setFre r).tnk = s.tnk := rfl
@[simp] theorem setFre_csu (r : FreRec) : (s.setFre r).csu = s.csu := rfl
@[simp] theorem setFre_exc (r : FreRec) : (s.setFre r).exc = s.exc := rfl
@[simp] theorem setFre_outs (r : FreRec) : (s.setFre r).outs = s.outs := rfl

/-! setSig -/

@[simp] theorem setSig_pending (r : SigRec) : (s.setSig r).pending = s.pending := rfl
@[simp] theorem setSig_outbox (r : SigRec) : (s.setSig r).outbox = s.outbox := rfl
@[simp] theorem setSig_now (r : SigRec) : (s.setSig r).now = s.now := rfl
@[simp] theorem setSig_free (r : SigRec) : (s.setSig r).free = s.free := rfl
@[simp] theorem setSig_sys (r : SigRec) : (s.setSig r).sys = s.sys := rfl
@[simp] theorem setSig_active (r : SigRec) : (s.setSig r).active = s.active := rfl
@[simp] theorem setSig_mgt (r : SigRec) : (s.setSig r).mgt = s.mgt := rfl
@[simp] theorem setSig_cp (r : SigRec) : (s.setSig r).cp = s.cp := rfl
@[simp] theorem setSig_bp (r : SigRec) : (s.setSig r).bp = s.bp := rfl
@[simp] theorem setSig_fre (r : SigRec) : (s.setSig r).fre = s.fre := rfl
@[simp] theorem setSig_sig (r : SigRec) : (s.setSig r).sig = r := rfl
@[simp] theorem setSig_ilk (r : SigRec) : (s.setSig r).ilk = s.ilk := rfl
@[simp] theorem setSig_drv (r : SigRec) : (s.setSig r).drv = s.drv := rfl
@[simp] theorem setSig_tnk (r : SigRec) : (s.setSig r).tnk = s.tnk := rfl
@[simp] theorem setSig_csu (r : SigRec) : (s.setSig r).csu = s.csu := rfl
@[simp] theorem setSig_exc (r : SigRec) : (s.setSig r).exc = s.exc := rfl
@[simp] theorem setSig_outs (r : SigRec) : (s.setSig r).outs = s.outs := rfl

/-! setIlk -/

@[simp] theorem setIlk_pending (r : IlkRec) : (s.setIlk r).pending = s.pending := rfl
@[simp] theorem setIlk_outbox (r : IlkRec) : (s.setIlk r).outbox = s.outbox := rfl
@[simp] theorem setIlk_now (r : IlkRec) : (s.setIlk r).now = s.now := rfl
@[simp] theorem setIlk_free (r : IlkRec) : (s.setIlk r).free = s.free := rfl
@[simp] theorem setIlk_sys (r : IlkRec) : (s.setIlk r).sys = s.sys := rfl
@[simp] theorem setIlk_active (r : IlkRec) : (s.setIlk r).active = s.active := rfl
@[simp] theorem setIlk_mgt (r : IlkRec) : (s.setIlk r).mgt = s.mgt := rfl
@[simp] theorem setIlk_cp (r : IlkRec) : (s.setIlk r).cp = s.cp := rfl
@[simp] theorem setIlk_bp (r : IlkRec) : (s.setIlk r).bp = s.bp := rfl
@[simp] theorem setIlk_fre (r : IlkRec) : (s.setIlk r).fre = s.fre := rfl
@[simp] theorem setIlk_sig (r : IlkRec) : (s.setIlk r).sig = s.sig := rfl
@[simp] theorem setIlk_ilk (r : IlkRec) : (s.setIlk r).ilk = r := rfl
@[simp] theorem setIlk_drv (r : IlkRec) : (s.setIlk r).drv = s.drv := rfl
@[simp] theorem setIlk_tnk (r : IlkRec) : (s.setIlk r).tnk = s.tnk := rfl
@[simp] theorem setIlk_csu (r : IlkRec) : (s.setIlk r).csu = s.csu := rfl
@[simp] theorem setIlk_exc (r : IlkRec) : (s.setIlk r).exc = s.exc := rfl
@[simp] theorem setIlk_outs (r : IlkRec) : (s.setIlk r).outs = s.outs := rfl

/-! setDrv -/

@[simp] theorem setDrv_pending (r : DrvRec) : (s.setDrv r).pending = s.pending := rfl
@[simp] theorem setDrv_outbox (r : DrvRec) : (s.setDrv r).outbox = s.outbox := rfl
@[simp] theorem setDrv_now (r : DrvRec) : (s.setDrv r).now = s.now := rfl
@[simp] theorem setDrv_free (r : DrvRec) : (s.setDrv r).free = s.free := rfl
@[simp] theorem setDrv_sys (r : DrvRec) : (s.setDrv r).sys = s.sys := rfl
@[simp] theorem setDrv_active (r : DrvRec) : (s.setDrv r).active = s.active := rfl
@[simp] theorem setDrv_mgt (r : DrvRec) : (s.setDrv r).mgt = s.mgt := rfl
@[simp] theorem setDrv_cp (r : DrvRec) : (s.setDrv r).cp = s.cp := rfl
@[simp] theorem setDrv_bp (r : DrvRec) : (s.setDrv r).bp = s.bp := rfl
@[simp] theorem setDrv_fre (r : DrvRec) : (s.setDrv r).fre = s.fre := rfl
@[simp] theorem setDrv_sig (r : DrvRec) : (s.setDrv r).sig = s.sig := rfl
@[simp] theorem setDrv_ilk (r : DrvRec) : (s.setDrv r).ilk = s.ilk := rfl
@[simp] theorem setDrv_drv (r : DrvRec) : (s.setDrv r).drv = r := rfl
@[simp] theorem setDrv_tnk (r : DrvRec) : (s.setDrv r).tnk = s.tnk := rfl
@[simp] theorem setDrv_csu (r : DrvRec) : (s.setDrv r).csu = s.csu := rfl
@[simp] theorem setDrv_exc (r : DrvRec) : (s.setDrv r).exc = s.exc := rfl
@[simp] theorem setDrv_outs (r : DrvRec) : (s.setDrv r).outs = s.outs := rfl

/-! setTnk -/

@[simp] theorem setTnk_pending (r : TnkRec) : (s.setTnk r).pending = s.pending := rfl
@[simp] theorem setTnk_outbox (r : TnkRec) : (s.setTnk r).outbox = s.outbox := rfl
@[simp] theorem setTnk_now (r : TnkRec) : (s.setTnk r).now = s.now := rfl
@[simp] theorem setTnk_free (r : TnkRec) : (s.setTnk r).free = s.free := rfl
@[simp] theorem setTnk_sys (r : TnkRec) : (s.setTnk r).sys = s.sys := rfl
@[simp] theorem setTnk_active (r : TnkRec) : (s.setTnk r).active = s.active := rfl
@[simp] theorem setTnk_mgt (r : TnkRec) : (s.setTnk r).mgt = s.mgt := rfl
@[simp] theorem setTnk_cp (r : TnkRec) : (s.setTnk r).cp = s.cp := rfl
@[simp] theorem setTnk_bp (r : TnkRec) : (s.setTnk r).bp = s.bp := rfl
@[simp] theorem setTnk_fre (r : TnkRec) : (s.setTnk r).fre = s.fre := rfl
@[simp] theorem setTnk_sig (r : TnkRec) : (s.setTnk r).sig = s.sig := rfl
@[simp] theorem setTnk_ilk (r : TnkRec) : (s.setTnk r).ilk = s.ilk := rfl
@[simp] theorem setTnk_drv (r : TnkRec) : (s.setTnk r).drv = s.drv := rfl
@[simp] theorem setTnk_tnk (r : TnkRec) : (s.setTnk r).tnk = r := rfl
@[simp] theorem setTnk_csu (r : TnkRec) : (s.setTnk r).csu = s.csu := rfl
@[simp] theorem setTnk_exc (r : TnkRec) : (s.setTnk r).exc = s.exc := rfl
@[simp] theorem setTnk_outs (r : TnkRec) : (s.setTnk r).outs = s.outs := rfl

/-! setCsu -/

@[simp] theorem setCsu_pending (r : CsuRec) : (s.setCsu r).pending = s.pending := rfl
@[simp] theorem setCsu_outbox (r : CsuRec) : (s.setCsu r).outbox = s.outbox := rfl
@[simp] theorem setCsu_now (r : CsuRec) : (s.setCsu r).now = s.now := rfl
@[simp] theorem setCsu_free (r : CsuRec) : (s.setCsu r).free = s.free := rfl
@[simp] theorem setCsu_sys (r : CsuRec) : (s.setCsu r).sys = s.sys := rfl
@[simp] theorem setCsu_active (r : CsuRec) : (s.setCsu r).active = s.active := rfl
@[simp] theorem setCsu_mgt (r : CsuRec) : (s.setCsu r).mgt = s.mgt := rfl
@[simp] theorem setCsu_cp (r : CsuRec) : (s.setCsu r).cp = s.cp := rfl
@[simp] theorem setCsu_bp (r : CsuRec) : (s.setCsu r).bp = s.bp := rfl
@[simp] theorem setCsu_fre (r : CsuRec) : (s.setCsu r).fre = s.fre := rfl
@[simp] theorem setCsu_sig (r : CsuRec) : (s.setCsu r).sig = s.sig := rfl
@[simp] theorem setCsu_ilk (r : CsuRec) : (s.setCsu r).ilk = s.ilk := rfl
@[simp] theorem setCsu_drv (r : CsuRec) : (s.setCsu r).drv = s.drv := rfl
@[simp] theorem setCsu_tnk (r : CsuRec) : (s.setCsu r).tnk = s.tnk := rfl
@[simp] theorem setCsu_csu (r : CsuRec) : (s.setCsu r).csu = r := rfl
@[simp] theorem setCsu_exc (r : CsuRec) : (s.setCsu r).exc = s.exc := rfl
@[simp] theorem setCsu_outs (r : CsuRec) : (s.setCsu r).outs = s.outs := rfl

/-! setExc -/

@[simp] theorem setExc_pending (r : ExcRec) : (s.setExc r).pending = s.pending := rfl
@[simp] theorem setExc_outbox (r : ExcRec) : (s.setExc r).outbox = s.outbox := rfl
@[simp] theorem setExc_now (r : ExcRec) : (s.setExc r).now = s.now := rfl
@[simp] theorem setExc_free (r : ExcRec) : (s.setExc r).free = s.free := rfl
@[simp] theorem setExc_sys (r : ExcRec) : (s.setExc r).sys = s.sys := rfl
@[simp] theorem setExc_active (r : ExcRec) : (s.setExc r).active = s.active := rfl
@[simp] theorem setExc_mgt (r : ExcRec) : (s.setExc r).mgt = s.mgt := rfl
@[simp] theorem setExc_cp (r : ExcRec) : (s.setExc r).cp = s.cp := rfl
@[simp] theorem setExc_bp (r : ExcRec) : (s.setExc r).bp = s.bp := rfl
@[simp] theorem setExc_fre (r : ExcRec) : (s.setExc r).fre = s.fre := rfl
@[simp] theorem setExc_sig (r : ExcRec) : (s.setExc r).sig = s.sig := rfl
@[simp] theorem setExc_ilk (r : ExcRec) : (s.setExc r).ilk = s.ilk := rfl
@[simp] theorem setExc_drv (r : ExcRec) : (s.setExc r).drv = s.drv := rfl
@[simp] theorem setExc_tnk (r : ExcRec) : (s.setExc r).tnk = s.tnk := rfl
@[simp] theorem setExc_csu (r : ExcRec) : (s.setExc r).csu = s.csu := rfl
@[simp] theorem setExc_exc (r : ExcRec) : (s.setExc r).exc = r := rfl
@[simp] theorem setExc_outs (r : ExcRec) : (s.setExc r).outs = s.outs := rfl

/-! setOuts -/

@[simp] theorem setOuts_pending (r : Outs) : (s.setOuts r).pending = s.pending := rfl
@[simp] theorem setOuts_outbox (r : Outs) : (s.setOuts r).outbox = s.outbox := rfl
@[simp] theorem setOuts_now (r : Outs) : (s.setOuts r).now = s.now := rfl
@[simp] theorem setOuts_free (r : Outs) : (s.setOuts r).free = s.free := rfl
@[simp] theorem setOuts_sys (r : Outs) : (s.setOuts r).sys = s.sys := rfl
@[simp] theorem setOuts_active (r : Outs) : (s.setOuts r).active = s.active := rfl
@[simp] theorem setOuts_mgt (r : Outs) : (s.setOuts r).mgt = s.mgt := rfl
@[simp] theorem setOuts_cp (r : Outs) : (s.setOuts r).cp = s.cp := rfl
@[simp] theorem setOuts_bp (r : Outs) : (s.setOuts r).bp = s.bp := rfl
@[simp] theorem setOuts_fre (r : Outs) : (s.setOuts r).fre = s.fre := rfl
@[simp] theorem setOuts_sig (r : Outs) : (s.setOuts r).sig = s.sig := rfl
@[simp] theorem setOuts_ilk (r : Outs) : (s.setOuts r).ilk = s.ilk := rfl
@[simp] theorem setOuts_drv (r : Outs) : (s.setOuts r).drv = s.drv := rfl
@[simp] theorem setOuts_tnk (r : Outs) : (s.setOuts r).tnk = s.tnk := rfl
@[simp] theorem setOuts_csu (r : Outs) : (s.setOuts r).csu = s.csu := rfl
@[simp] theorem setOuts_exc (r : Outs) : (s.setOuts r).exc = s.exc := rfl
@[simp] theorem setOuts_outs (r : Outs) : (s.setOuts r).outs = r := rfl

/-! setPort -/

@[simp] theorem setPort_pending (p : Port) (r : PortRec) : (s.setPort p r).pending = s.pending := by cases p <;> rfl
@[simp] theorem setPort_outbox (p : Port) (r : PortRec) : (s.setPort p r).outbox = s.outbox := by cases p <;> rfl
@[simp] theorem setPort_now (p : Port) (r : PortRec) : (s.setPort p r).now = s.now := by cases p <;> rfl
@[simp] theorem setPort_free (p : Port) (r : PortRec) : (s.setPort p r).free = s.free := by cases p <;> rfl
@[simp] theorem setPort_sys (p : Port) (r : PortRec) : (s.setPort p r).sys = s.sys := by cases p <;> rfl
@[simp] theorem setPort_active (p : Port) (r : PortRec) : (s.setPort p r).active = s.active := by cases p <;> rfl
@[simp] theorem setPort_mgt (p : Port) (r : PortRec) : (s.setPort p r).mgt = s.mgt := by cases p <;> rfl
@[simp] theorem setPort_fre (p : Port) (r : PortRec) : (s.setPort p r).fre = s.fre := by cases p <;> rfl
@[simp] theorem setPort_sig (p : Port) (r : PortRec) : (s.setPort p r).sig = s.sig := by cases p <;> rfl
@[simp] theorem setPort_ilk (p : Port) (r : PortRec) : (s.setPort p r).ilk = s.ilk := by cases p <;> rfl
@[simp] theorem setPort_drv (p : Port) (r : PortRec) : (s.setPort p r).drv = s.drv := by cases p <;> rfl
@[simp] theorem setPort_tnk (p : Port) (r : PortRec) : (s.setPort p r).tnk = s.tnk := by cases p <;> rfl
@[simp] theorem setPort_csu (p : Port) (r : PortRec) : (s.setPort p r).csu = s.csu := by cases p <;> rfl
@[simp] theorem setPort_exc (p : Port) (r : PortRec) : (s.setPort p r).exc = s.exc := by cases p <;> rfl
@[simp] theorem setPort_outs (p : Port) (r : PortRec) : (s.setPort p r).outs = s.outs := by cases p <;> rfl

/-! setSlot -/

@[simp] theorem setSlot_pending (i : Fin 32) (r : SlotRec) : (s.setSlot i r).pending = s.pending := rfl
@[simp] theorem setSlot_outbox (i : Fin 32) (r : SlotRec) : (s.setSlot i r).outbox = s.outbox := rfl
@[simp] theorem setSlot_now (i : Fin 32) (r : SlotRec) : (s.setSlot i r).now = s.now := rfl
@[simp] theorem setSlot_free (i : Fin 32) (r : SlotRec) : (s.setSlot i r).free = s.free := rfl
@[simp] theorem setSlot_sys (i : Fin 32) (r : SlotRec) : (s.setSlot i r).sys = s.sys := rfl
@[simp] theorem setSlot_active (i : Fin 32) (r : SlotRec) : (s.setSlot i r).active = s.active := rfl
@[simp] theorem setSlot_mgt (i : Fin 32) (r : SlotRec) : (s.setSlot i r).mgt = s.mgt := rfl
@[simp] theorem setSlot_cp (i : Fin 32) (r : SlotRec) : (s.setSlot i r).cp = s.cp := rfl
@[simp] theorem setSlot_bp (i : Fin 32) (r : SlotRec) : (s.setSlot i r).bp = s.bp := rfl
@[simp] theorem setSlot_fre (i : Fin 32) (r : SlotRec) : (s.setSlot i r).fre = s.fre := rfl
@[simp] theorem setSlot_sig (i : Fin 32) (r : SlotRec) : (s.setSlot i r).sig = { s.sig with slots := s.sig.slots.set i.val r } := rfl
@[simp] theorem setSlot_ilk (i : Fin 32) (r : SlotRec) : (s.setSlot i r).ilk = s.ilk := rfl
@[simp] theorem setSlot_drv (i : Fin 32) (r : SlotRec) : (s.setSlot i r).drv = s.drv := rfl
@[simp] theorem setSlot_tnk (i : Fin 32) (r : SlotRec) : (s.setSlot i r).tnk = s.tnk := rfl
@[simp] theorem setSlot_csu (i : Fin 32) (r : SlotRec) : (s.setSlot i r).csu = s.csu := rfl
@[simp] theorem setSlot_exc (i : Fin 32) (r : SlotRec) : (s.setSlot i r).exc = s.exc := rfl
@[simp] theorem setSlot_outs (i : Fin 32) (r : SlotRec) : (s.setSlot i r).outs = s.outs := rfl

/-! setSwitch -/

@[simp] theorem setSwitch_pending (sw : Fin 6) (r : SwitchRec) : (s.setSwitch sw r).pending = s.pending := rfl
@[simp] theorem setSwitch_outbox (sw : Fin 6) (r : SwitchRec) : (s.setSwitch sw r).outbox = s.outbox := rfl
@[simp] theorem setSwitch_now (sw : Fin 6) (r : SwitchRec) : (s.setSwitch sw r).now = s.now := rfl
@[simp] theorem setSwitch_free (sw : Fin 6) (r : SwitchRec) : (s.setSwitch sw r).free = s.free := rfl
@[simp] theorem setSwitch_sys (sw : Fin 6) (r : SwitchRec) : (s.setSwitch sw r).sys = s.sys := rfl
@[simp] theorem setSwitch_active (sw : Fin 6) (r : SwitchRec) : (s.setSwitch sw r).active = s.active := rfl
@[simp] theorem setSwitch_mgt (sw : Fin 6) (r : SwitchRec) : (s.setSwitch sw r).mgt = s.mgt := rfl
@[simp] theorem setSwitch_cp (sw : Fin 6) (r : SwitchRec) : (s.setSwitch sw r).cp = s.cp := rfl
@[simp] theorem setSwitch_bp (sw : Fin 6) (r : SwitchRec) : (s.setSwitch sw r).bp = s.bp := rfl
@[simp] theorem setSwitch_fre (sw : Fin 6) (r : SwitchRec) : (s.setSwitch sw r).fre = s.fre := rfl
@[simp] theorem setSwitch_sig (sw : Fin 6) (r : SwitchRec) : (s.setSwitch sw r).sig = { s.sig with switches := s.sig.switches.set sw.val r } := rfl
@[simp] theorem setSwitch_ilk (sw : Fin 6) (r : SwitchRec) : (s.setSwitch sw r).ilk = s.ilk := rfl
@[simp] theorem setSwitch_drv (sw : Fin 6) (r : SwitchRec) : (s.setSwitch sw r).drv = s.drv := rfl
@[simp] theorem setSwitch_tnk (sw : Fin 6) (r : SwitchRec) : (s.setSwitch sw r).tnk = s.tnk := rfl
@[simp] theorem setSwitch_csu (sw : Fin 6) (r : SwitchRec) : (s.setSwitch sw r).csu = s.csu := rfl
@[simp] theorem setSwitch_exc (sw : Fin 6) (r : SwitchRec) : (s.setSwitch sw r).exc = s.exc := rfl
@[simp] theorem setSwitch_outs (sw : Fin 6) (r : SwitchRec) : (s.setSwitch sw r).outs = s.outs := rfl

/-! setPulse -/

@[simp] theorem setPulse_pending (pi : Fin 4) (r : PulseRec) : (s.setPulse pi r).pending = s.pending := rfl
@[simp] theorem setPulse_outbox (pi : Fin 4) (r : PulseRec) : (s.setPulse pi r).outbox = s.outbox := rfl
@[simp] theorem setPulse_now (pi : Fin 4) (r : PulseRec) : (s.setPulse pi r).now = s.now := rfl
@[simp] theorem setPulse_free (pi : Fin 4) (r : PulseRec) : (s.setPulse pi r).free = s.free := rfl
@[simp] theorem setPulse_sys (pi : Fin 4) (r : PulseRec) : (s.setPulse pi r).sys = s.sys := rfl
@[simp] theorem setPulse_active (pi : Fin 4) (r : PulseRec) : (s.setPulse pi r).active = s.active := rfl
@[simp] theorem setPulse_mgt (pi : Fin 4) (r : PulseRec) : (s.setPulse pi r).mgt = s.mgt := rfl
@[simp] theorem setPulse_cp (pi : Fin 4) (r : PulseRec) : (s.setPulse pi r).cp = s.cp := rfl
@[simp] theorem setPulse_bp (pi : Fin 4) (r : PulseRec) : (s.setPulse pi r).bp = s.bp := rfl
@[simp] theorem setPulse_fre (pi : Fin 4) (r : PulseRec) : (s.setPulse pi r).fre = s.fre := rfl
@[simp] theorem setPulse_sig (pi : Fin 4) (r : PulseRec) : (s.setPulse pi r).sig = { s.sig with pulses := s.sig.pulses.set pi.val r } := rfl
@[simp] theorem setPulse_ilk (pi : Fin 4) (r : PulseRec) : (s.setPulse pi r).ilk = s.ilk := rfl
@[simp] theorem setPulse_drv (pi : Fin 4) (r : PulseRec) : (s.setPulse pi r).drv = s.drv := rfl
@[simp] theorem setPulse_tnk (pi : Fin 4) (r : PulseRec) : (s.setPulse pi r).tnk = s.tnk := rfl
@[simp] theorem setPulse_csu (pi : Fin 4) (r : PulseRec) : (s.setPulse pi r).csu = s.csu := rfl
@[simp] theorem setPulse_exc (pi : Fin 4) (r : PulseRec) : (s.setPulse pi r).exc = s.exc := rfl
@[simp] theorem setPulse_outs (pi : Fin 4) (r : PulseRec) : (s.setPulse pi r).outs = s.outs := rfl

/-! setHold -/

@[simp] theorem setHold_pending (h : List HeldFrame) : (s.setHold h).pending = s.pending := rfl
@[simp] theorem setHold_outbox (h : List HeldFrame) : (s.setHold h).outbox = s.outbox := rfl
@[simp] theorem setHold_now (h : List HeldFrame) : (s.setHold h).now = s.now := rfl
@[simp] theorem setHold_free (h : List HeldFrame) : (s.setHold h).free = s.free := rfl
@[simp] theorem setHold_sys (h : List HeldFrame) : (s.setHold h).sys = s.sys := rfl
@[simp] theorem setHold_active (h : List HeldFrame) : (s.setHold h).active = s.active := rfl
@[simp] theorem setHold_mgt (h : List HeldFrame) : (s.setHold h).mgt = s.mgt := rfl
@[simp] theorem setHold_cp (h : List HeldFrame) : (s.setHold h).cp = s.cp := rfl
@[simp] theorem setHold_bp (h : List HeldFrame) : (s.setHold h).bp = s.bp := rfl
@[simp] theorem setHold_fre (h : List HeldFrame) : (s.setHold h).fre = { s.fre with hold := h } := rfl
@[simp] theorem setHold_sig (h : List HeldFrame) : (s.setHold h).sig = s.sig := rfl
@[simp] theorem setHold_ilk (h : List HeldFrame) : (s.setHold h).ilk = s.ilk := rfl
@[simp] theorem setHold_drv (h : List HeldFrame) : (s.setHold h).drv = s.drv := rfl
@[simp] theorem setHold_tnk (h : List HeldFrame) : (s.setHold h).tnk = s.tnk := rfl
@[simp] theorem setHold_csu (h : List HeldFrame) : (s.setHold h).csu = s.csu := rfl
@[simp] theorem setHold_exc (h : List HeldFrame) : (s.setHold h).exc = s.exc := rfl
@[simp] theorem setHold_outs (h : List HeldFrame) : (s.setHold h).outs = s.outs := rfl

/-! setReissue -/

@[simp] theorem setReissue_pending (k : Fin 16) (r : Option ReissueRec) : (s.setReissue k r).pending = s.pending := rfl
@[simp] theorem setReissue_outbox (k : Fin 16) (r : Option ReissueRec) : (s.setReissue k r).outbox = s.outbox := rfl
@[simp] theorem setReissue_now (k : Fin 16) (r : Option ReissueRec) : (s.setReissue k r).now = s.now := rfl
@[simp] theorem setReissue_free (k : Fin 16) (r : Option ReissueRec) : (s.setReissue k r).free = s.free := rfl
@[simp] theorem setReissue_sys (k : Fin 16) (r : Option ReissueRec) : (s.setReissue k r).sys = s.sys := rfl
@[simp] theorem setReissue_active (k : Fin 16) (r : Option ReissueRec) : (s.setReissue k r).active = s.active := rfl
@[simp] theorem setReissue_mgt (k : Fin 16) (r : Option ReissueRec) : (s.setReissue k r).mgt = s.mgt := rfl
@[simp] theorem setReissue_cp (k : Fin 16) (r : Option ReissueRec) : (s.setReissue k r).cp = s.cp := rfl
@[simp] theorem setReissue_bp (k : Fin 16) (r : Option ReissueRec) : (s.setReissue k r).bp = s.bp := rfl
@[simp] theorem setReissue_fre (k : Fin 16) (r : Option ReissueRec) : (s.setReissue k r).fre = { s.fre with reissue := s.fre.reissue.set k.val r } := rfl
@[simp] theorem setReissue_sig (k : Fin 16) (r : Option ReissueRec) : (s.setReissue k r).sig = s.sig := rfl
@[simp] theorem setReissue_ilk (k : Fin 16) (r : Option ReissueRec) : (s.setReissue k r).ilk = s.ilk := rfl
@[simp] theorem setReissue_drv (k : Fin 16) (r : Option ReissueRec) : (s.setReissue k r).drv = s.drv := rfl
@[simp] theorem setReissue_tnk (k : Fin 16) (r : Option ReissueRec) : (s.setReissue k r).tnk = s.tnk := rfl
@[simp] theorem setReissue_csu (k : Fin 16) (r : Option ReissueRec) : (s.setReissue k r).csu = s.csu := rfl
@[simp] theorem setReissue_exc (k : Fin 16) (r : Option ReissueRec) : (s.setReissue k r).exc = s.exc := rfl
@[simp] theorem setReissue_outs (k : Fin 16) (r : Option ReissueRec) : (s.setReissue k r).outs = s.outs := rfl

/-! setStopped -/

@[simp] theorem setStopped_pending (b : Bool) : (s.setStopped b).pending = s.pending := rfl
@[simp] theorem setStopped_outbox (b : Bool) : (s.setStopped b).outbox = s.outbox := rfl
@[simp] theorem setStopped_now (b : Bool) : (s.setStopped b).now = s.now := rfl
@[simp] theorem setStopped_free (b : Bool) : (s.setStopped b).free = s.free := rfl
@[simp] theorem setStopped_sys (b : Bool) : (s.setStopped b).sys = s.sys := rfl
@[simp] theorem setStopped_active (b : Bool) : (s.setStopped b).active = s.active := rfl
@[simp] theorem setStopped_mgt (b : Bool) : (s.setStopped b).mgt = s.mgt := rfl
@[simp] theorem setStopped_cp (b : Bool) : (s.setStopped b).cp = s.cp := rfl
@[simp] theorem setStopped_bp (b : Bool) : (s.setStopped b).bp = s.bp := rfl
@[simp] theorem setStopped_fre (b : Bool) : (s.setStopped b).fre = s.fre := rfl
@[simp] theorem setStopped_sig (b : Bool) : (s.setStopped b).sig = s.sig := rfl
@[simp] theorem setStopped_ilk (b : Bool) : (s.setStopped b).ilk = { s.ilk with stopped := b } := rfl
@[simp] theorem setStopped_drv (b : Bool) : (s.setStopped b).drv = s.drv := rfl
@[simp] theorem setStopped_tnk (b : Bool) : (s.setStopped b).tnk = s.tnk := rfl
@[simp] theorem setStopped_csu (b : Bool) : (s.setStopped b).csu = s.csu := rfl
@[simp] theorem setStopped_exc (b : Bool) : (s.setStopped b).exc = s.exc := rfl
@[simp] theorem setStopped_outs (b : Bool) : (s.setStopped b).outs = s.outs := rfl

/-! setMem -/

@[simp] theorem setMem_pending (m : Vector (Vector Tri 4) 24) : (s.setMem m).pending = s.pending := rfl
@[simp] theorem setMem_outbox (m : Vector (Vector Tri 4) 24) : (s.setMem m).outbox = s.outbox := rfl
@[simp] theorem setMem_now (m : Vector (Vector Tri 4) 24) : (s.setMem m).now = s.now := rfl
@[simp] theorem setMem_free (m : Vector (Vector Tri 4) 24) : (s.setMem m).free = s.free := rfl
@[simp] theorem setMem_sys (m : Vector (Vector Tri 4) 24) : (s.setMem m).sys = s.sys := rfl
@[simp] theorem setMem_active (m : Vector (Vector Tri 4) 24) : (s.setMem m).active = s.active := rfl
@[simp] theorem setMem_mgt (m : Vector (Vector Tri 4) 24) : (s.setMem m).mgt = s.mgt := rfl
@[simp] theorem setMem_cp (m : Vector (Vector Tri 4) 24) : (s.setMem m).cp = s.cp := rfl
@[simp] theorem setMem_bp (m : Vector (Vector Tri 4) 24) : (s.setMem m).bp = s.bp := rfl
@[simp] theorem setMem_fre (m : Vector (Vector Tri 4) 24) : (s.setMem m).fre = s.fre := rfl
@[simp] theorem setMem_sig (m : Vector (Vector Tri 4) 24) : (s.setMem m).sig = s.sig := rfl
@[simp] theorem setMem_ilk (m : Vector (Vector Tri 4) 24) : (s.setMem m).ilk = { s.ilk with mem := m } := rfl
@[simp] theorem setMem_drv (m : Vector (Vector Tri 4) 24) : (s.setMem m).drv = s.drv := rfl
@[simp] theorem setMem_tnk (m : Vector (Vector Tri 4) 24) : (s.setMem m).tnk = s.tnk := rfl
@[simp] theorem setMem_csu (m : Vector (Vector Tri 4) 24) : (s.setMem m).csu = s.csu := rfl
@[simp] theorem setMem_exc (m : Vector (Vector Tri 4) 24) : (s.setMem m).exc = s.exc := rfl
@[simp] theorem setMem_outs (m : Vector (Vector Tri 4) 24) : (s.setMem m).outs = s.outs := rfl

/-! setChan -/

@[simp] theorem setChan_pending (c : Channel) (r : ChannelRec) : (s.setChan c r).pending = s.pending := rfl
@[simp] theorem setChan_outbox (c : Channel) (r : ChannelRec) : (s.setChan c r).outbox = s.outbox := rfl
@[simp] theorem setChan_now (c : Channel) (r : ChannelRec) : (s.setChan c r).now = s.now := rfl
@[simp] theorem setChan_free (c : Channel) (r : ChannelRec) : (s.setChan c r).free = s.free := rfl
@[simp] theorem setChan_sys (c : Channel) (r : ChannelRec) : (s.setChan c r).sys = s.sys := rfl
@[simp] theorem setChan_active (c : Channel) (r : ChannelRec) : (s.setChan c r).active = s.active := rfl
@[simp] theorem setChan_mgt (c : Channel) (r : ChannelRec) : (s.setChan c r).mgt = s.mgt := rfl
@[simp] theorem setChan_cp (c : Channel) (r : ChannelRec) : (s.setChan c r).cp = s.cp := rfl
@[simp] theorem setChan_bp (c : Channel) (r : ChannelRec) : (s.setChan c r).bp = s.bp := rfl
@[simp] theorem setChan_fre (c : Channel) (r : ChannelRec) : (s.setChan c r).fre = s.fre := rfl
@[simp] theorem setChan_sig (c : Channel) (r : ChannelRec) : (s.setChan c r).sig = s.sig := rfl
@[simp] theorem setChan_ilk (c : Channel) (r : ChannelRec) : (s.setChan c r).ilk = s.ilk := rfl
@[simp] theorem setChan_tnk (c : Channel) (r : ChannelRec) : (s.setChan c r).tnk = s.tnk := rfl
@[simp] theorem setChan_csu (c : Channel) (r : ChannelRec) : (s.setChan c r).csu = s.csu := rfl
@[simp] theorem setChan_exc (c : Channel) (r : ChannelRec) : (s.setChan c r).exc = s.exc := rfl
@[simp] theorem setChan_outs (c : Channel) (r : ChannelRec) : (s.setChan c r).outs = s.outs := rfl

/-! setLine -/

@[simp] theorem setLine_pending (c : Channel) (b : Bool) : (s.setLine c b).pending = s.pending := rfl
@[simp] theorem setLine_outbox (c : Channel) (b : Bool) : (s.setLine c b).outbox = s.outbox := rfl
@[simp] theorem setLine_now (c : Channel) (b : Bool) : (s.setLine c b).now = s.now := rfl
@[simp] theorem setLine_free (c : Channel) (b : Bool) : (s.setLine c b).free = s.free := rfl
@[simp] theorem setLine_sys (c : Channel) (b : Bool) : (s.setLine c b).sys = s.sys := rfl
@[simp] theorem setLine_active (c : Channel) (b : Bool) : (s.setLine c b).active = s.active := rfl
@[simp] theorem setLine_mgt (c : Channel) (b : Bool) : (s.setLine c b).mgt = s.mgt := rfl
@[simp] theorem setLine_cp (c : Channel) (b : Bool) : (s.setLine c b).cp = s.cp := rfl
@[simp] theorem setLine_bp (c : Channel) (b : Bool) : (s.setLine c b).bp = s.bp := rfl
@[simp] theorem setLine_fre (c : Channel) (b : Bool) : (s.setLine c b).fre = s.fre := rfl
@[simp] theorem setLine_sig (c : Channel) (b : Bool) : (s.setLine c b).sig = s.sig := rfl
@[simp] theorem setLine_ilk (c : Channel) (b : Bool) : (s.setLine c b).ilk = s.ilk := rfl
@[simp] theorem setLine_drv (c : Channel) (b : Bool) : (s.setLine c b).drv = s.drv := rfl
@[simp] theorem setLine_tnk (c : Channel) (b : Bool) : (s.setLine c b).tnk = s.tnk := rfl
@[simp] theorem setLine_csu (c : Channel) (b : Bool) : (s.setLine c b).csu = s.csu := rfl
@[simp] theorem setLine_exc (c : Channel) (b : Bool) : (s.setLine c b).exc = s.exc := rfl

/-! withTnk -/

@[simp] theorem withTnk_pending (n : TnkRec) : (s.withTnk n).pending = s.pending := rfl
@[simp] theorem withTnk_outbox (n : TnkRec) : (s.withTnk n).outbox = s.outbox := rfl
@[simp] theorem withTnk_now (n : TnkRec) : (s.withTnk n).now = s.now := rfl
@[simp] theorem withTnk_free (n : TnkRec) : (s.withTnk n).free = s.free := rfl
@[simp] theorem withTnk_sys (n : TnkRec) : (s.withTnk n).sys = s.sys := rfl
@[simp] theorem withTnk_active (n : TnkRec) : (s.withTnk n).active = s.active := rfl
@[simp] theorem withTnk_mgt (n : TnkRec) : (s.withTnk n).mgt = s.mgt := rfl
@[simp] theorem withTnk_cp (n : TnkRec) : (s.withTnk n).cp = s.cp := rfl
@[simp] theorem withTnk_bp (n : TnkRec) : (s.withTnk n).bp = s.bp := rfl
@[simp] theorem withTnk_fre (n : TnkRec) : (s.withTnk n).fre = s.fre := rfl
@[simp] theorem withTnk_sig (n : TnkRec) : (s.withTnk n).sig = s.sig := rfl
@[simp] theorem withTnk_ilk (n : TnkRec) : (s.withTnk n).ilk = s.ilk := rfl
@[simp] theorem withTnk_drv (n : TnkRec) : (s.withTnk n).drv = s.drv := rfl
@[simp] theorem withTnk_tnk (n : TnkRec) : (s.withTnk n).tnk = n := rfl
@[simp] theorem withTnk_csu (n : TnkRec) : (s.withTnk n).csu = s.csu := rfl
@[simp] theorem withTnk_exc (n : TnkRec) : (s.withTnk n).exc = s.exc := rfl
@[simp] theorem withTnk_outs (n : TnkRec) : (s.withTnk n).outs = { s.outs with tank := n.tankOpen || n.override, fill := n.fillOpen } := rfl

/-! setSummary -/

@[simp] theorem setSummary_pending (b : Bool) : (s.setSummary b).pending = s.pending := rfl
@[simp] theorem setSummary_outbox (b : Bool) : (s.setSummary b).outbox = s.outbox := rfl
@[simp] theorem setSummary_now (b : Bool) : (s.setSummary b).now = s.now := rfl
@[simp] theorem setSummary_free (b : Bool) : (s.setSummary b).free = s.free := rfl
@[simp] theorem setSummary_sys (b : Bool) : (s.setSummary b).sys = s.sys := rfl
@[simp] theorem setSummary_active (b : Bool) : (s.setSummary b).active = s.active := rfl
@[simp] theorem setSummary_mgt (b : Bool) : (s.setSummary b).mgt = s.mgt := rfl
@[simp] theorem setSummary_cp (b : Bool) : (s.setSummary b).cp = s.cp := rfl
@[simp] theorem setSummary_bp (b : Bool) : (s.setSummary b).bp = s.bp := rfl
@[simp] theorem setSummary_fre (b : Bool) : (s.setSummary b).fre = s.fre := rfl
@[simp] theorem setSummary_sig (b : Bool) : (s.setSummary b).sig = s.sig := rfl
@[simp] theorem setSummary_ilk (b : Bool) : (s.setSummary b).ilk = s.ilk := rfl
@[simp] theorem setSummary_drv (b : Bool) : (s.setSummary b).drv = s.drv := rfl
@[simp] theorem setSummary_tnk (b : Bool) : (s.setSummary b).tnk = s.tnk := rfl
@[simp] theorem setSummary_csu (b : Bool) : (s.setSummary b).csu = s.csu := rfl
@[simp] theorem setSummary_exc (b : Bool) : (s.setSummary b).exc = { s.exc with summary := b } := rfl
@[simp] theorem setSummary_outs (b : Bool) : (s.setSummary b).outs = { s.outs with alarm := b } := rfl

/-! listen -/

@[simp] theorem listen_pending : s.listen.pending = s.pending := rfl
@[simp] theorem listen_outbox : s.listen.outbox = s.outbox := rfl
@[simp] theorem listen_now : s.listen.now = s.now := rfl
@[simp] theorem listen_free : s.listen.free = s.free := rfl
@[simp] theorem listen_sys : s.listen.sys = s.sys := rfl
@[simp] theorem listen_active : s.listen.active = s.active := rfl
@[simp] theorem listen_mgt : s.listen.mgt = s.mgt := rfl
@[simp] theorem listen_fre : s.listen.fre = s.fre := rfl
@[simp] theorem listen_sig : s.listen.sig = s.sig := rfl
@[simp] theorem listen_ilk : s.listen.ilk = s.ilk := rfl
@[simp] theorem listen_drv : s.listen.drv = s.drv := rfl
@[simp] theorem listen_tnk : s.listen.tnk = s.tnk := rfl
@[simp] theorem listen_csu : s.listen.csu = s.csu := rfl
@[simp] theorem listen_exc : s.listen.exc = s.exc := rfl
@[simp] theorem listen_outs : s.listen.outs = s.outs := rfl
@[simp] theorem listen_cp : s.listen.cp = { s.cp with since := s.now } := rfl
@[simp] theorem listen_bp : s.listen.bp = { s.bp with since := s.now } := rfl
@[simp] theorem listen_port (p : Port) : s.listen.port p = { s.port p with since := s.now } := by cases p <;> rfl

/-! Ports, channels and slots read after an update of one of them. -/

@[simp] theorem setPort_cp_cp (r : PortRec) : (s.setPort .cp r).cp = r := rfl
@[simp] theorem setPort_cp_bp (r : PortRec) : (s.setPort .cp r).bp = s.bp := rfl
@[simp] theorem setPort_bp_bp (r : PortRec) : (s.setPort .bp r).bp = r := rfl
@[simp] theorem setPort_bp_cp (r : PortRec) : (s.setPort .bp r).cp = s.cp := rfl
@[simp] theorem port_setPort (p : Port) (r : PortRec) : (s.setPort p r).port p = r := by cases p <;> rfl
@[simp] theorem port_setPort_other (p : Port) (r : PortRec) : (s.setPort p r).port p.other = s.port p.other := by
  cases p <;> rfl
@[simp] theorem setPort_self (p : Port) : s.setPort p (s.port p) = s := by cases p <;> rfl
@[simp] theorem chan_setChan (c : Channel) (r : ChannelRec) : (s.setChan c r).chan c = r := by cases c <;> rfl
theorem chan_setChan_ne {c d : Channel} (h : d ≠ c) (r : ChannelRec) : (s.setChan c r).chan d = s.chan d := by
  cases c <;> cases d <;> first | rfl | exact absurd rfl h
@[simp] theorem slot_setSlot (i : Fin 32) (r : SlotRec) : (s.setSlot i r).slot i = r := get_set_self _ _ _
theorem slot_setSlot_ne {i j : Fin 32} (h : j ≠ i) (r : SlotRec) : (s.setSlot i r).slot j = s.slot j :=
  get_set_ne _ h _
@[simp] theorem port_post (p : Port) (ds : List Instr) : (s.post ds).port p = s.port p := by cases p <;> rfl
@[simp] theorem port_raise (p : Port) (r : Raise) : (s.raise r).port p = s.port p := by cases p <;> rfl
@[simp] theorem port_taken (p : Port) (d : Instr) : (s.taken d).port p = s.port p := by cases p <;> rfl
@[simp] theorem port_clock (p : Port) (t : Nat) : (s.clock t).port p = s.port p := by cases p <;> rfl
@[simp] theorem chan_post (c : Channel) (ds : List Instr) : (s.post ds).chan c = s.chan c := by cases c <;> rfl
@[simp] theorem chan_raise (c : Channel) (r : Raise) : (s.raise r).chan c = s.chan c := by cases c <;> rfl
@[simp] theorem chan_taken (c : Channel) (d : Instr) : (s.taken d).chan c = s.chan c := by cases c <;> rfl
@[simp] theorem chan_clock (c : Channel) (t : Nat) : (s.clock t).chan c = s.chan c := by cases c <;> rfl
@[simp] theorem chan_setLine (c d : Channel) (b : Bool) : (s.setLine c b).chan d = s.chan d := by cases d <;> rfl
@[simp] theorem slot_post (i : Fin 32) (ds : List Instr) : (s.post ds).slot i = s.slot i := rfl
@[simp] theorem slot_taken (i : Fin 32) (d : Instr) : (s.taken d).slot i = s.slot i := rfl
@[simp] theorem slot_clock (i : Fin 32) (t : Nat) : (s.clock t).slot i = s.slot i := rfl

end Sys2Proof.Machine
end

