-- ==== Sys2Proof/Laws/Ops.lean ====
section
/-! SUPPORT. What each shared operation can change, once and for all: op s is s with the named parts replaced. -/

namespace Sys2Proof.Machine

/-- A part of the state that no step of a fold changes is the same after the fold. -/
theorem foldl_keeps {α β : Type} (π : State → α) (f : State → β → State) (h : ∀ s x, π (f s x) = π s) :
    ∀ (xs : List β) (s : State), π (xs.foldl f s) = π s
  | [], _ => rfl
  | x :: xs, s => by rw [List.foldl_cons, foldl_keeps π f h xs, h]

/-- A property that every step of a fold keeps holds after the fold. -/
theorem foldl_inv {β : Type} (P : State → Prop) (f : State → β → State) (h : ∀ s x, P s → P (f s x)) :
    ∀ (xs : List β) (s : State), P s → P (xs.foldl f s)
  | [], _, hs => hs
  | x :: xs, s, hs => by rw [List.foldl_cons]; exact foldl_inv P f h xs _ (h s x hs)

/-! Ports. -/

/-- A port's record replaced changes the two port records at most. -/
theorem setPort_frame (s : State) (p : Port) (r : PortRec) :
    ∃ cp bp, s.setPort p r = { s with cp := cp, bp := bp } := by cases p <;> exact ⟨_, _, rfl⟩

/-- QUEUE_FORWARDED changes port records and deliveries at most. -/
theorem queueForwarded_frame (s : State) (p : Port) (q : ForwardRequest) :
    ∃ cp bp ob, queueForwarded s p q = { s with cp := cp, bp := bp, outbox := ob } := by
  simp only [queueForwarded]
  split
  · exact ⟨_, _, _, rfl⟩
  · split
    · cases p <;> exact ⟨_, _, _, rfl⟩
    · split
      · exact ⟨_, _, _, rfl⟩
      · cases p <;> exact ⟨_, _, _, rfl⟩

/-- Queuing a part-originated frame changes port records at most. -/
theorem queuePart_frame (s : State) (p : Port) (f : Frame) :
    ∃ cp bp, queuePart s p f = { s with cp := cp, bp := bp } := by
  simp only [queuePart]
  split
  · exact ⟨_, _, rfl⟩
  · exact setPort_frame ..

/-- A response changes port records at most. -/
theorem respond_frame (s : State) (p : Port) (code tag : Byte) (res : Result) (data : List Byte) :
    ∃ cp bp, respond s p code tag res data = { s with cp := cp, bp := bp } := queuePart_frame ..

/-! EXC. -/

/-- The sending of a notice changes port records at most (R171). -/
theorem sendNotice_frame (s : State) (before : BitVec 18) (r : Raise) :
    ∃ cp bp, sendNotice s before r = { s with cp := cp, bp := bp } := by
  simp only [sendNotice]
  split
  · exact ⟨_, _, rfl⟩
  · exact queuePart_frame ..

/-- The taking of a raise changes EXC's state, OUT_ALARM and port records at most. -/
theorem excTake_frame (s : State) (r : Raise) :
    ∃ exc alarm cp bp, excTake s r =
      { s with exc := exc, outs := { s.outs with alarm := alarm }, cp := cp, bp := bp } := by
  simp only [excTake]
  split
  · exact ⟨_, s.outs.alarm, _, _, rfl⟩
  · obtain ⟨cp, bp, h⟩ := sendNotice_frame (markRaise s r) s.exc.pend r
    exact ⟨_, _, cp, bp, h⟩

/-- EXC's state after the taking of a raise (R163). -/
theorem excTake_exc (s : State) (r : Raise) :
    (excTake s r).exc =
      if s.active.masked r.cls then { s.exc with flags := flagsAfter s r } else (markRaise s r).exc := by
  simp only [excTake]
  split
  · rfl
  · obtain ⟨cp, bp, h⟩ := sendNotice_frame (markRaise s r) s.exc.pend r
    rw [h]

/-- OUT_ALARM after the taking of a raise (R166). -/
theorem excTake_outs (s : State) (r : Raise) :
    (excTake s r).outs = if s.active.masked r.cls then s.outs else (markRaise s r).outs := by
  simp only [excTake]
  split
  · rfl
  · obtain ⟨cp, bp, h⟩ := sendNotice_frame (markRaise s r) s.exc.pend r
    rw [h]

/-- A commit's mask change changes EXC's state and OUT_ALARM at most (R168). -/
theorem maskChange_frame (s : State) (before : BitVec 18) :
    ∃ exc alarm, maskChange s before = { s with exc := exc, outs := { s.outs with alarm := alarm } } := by
  simp only [maskChange]
  split
  · exact ⟨s.exc, s.outs.alarm, rfl⟩
  · exact ⟨_, _, rfl⟩

/-! SIG. -/

/-- A slot write changes SIG's state and deliveries (R46). -/
theorem writeSlot_frame (s : State) (i : Fin 32) (v : Raw) (w : Writer) :
    ∃ sig ob, writeSlot s i v w = { s with sig := sig, outbox := ob } := ⟨_, _, rfl⟩

/-- A slot going stale changes SIG's state and deliveries (R47). -/
theorem staleSlot_frame (s : State) (i : Fin 32) :
    ∃ sig ob, staleSlot s i = { s with sig := sig, outbox := ob } := ⟨_, _, rfl⟩

/-- SIG's commands change SIG's state, deliveries and the clock at most. -/
theorem sig_frames (s : State) :
    (∀ i, ∃ sig ob now, staleExpiry s i = { s with sig := sig, outbox := ob, now := now })
      ∧ (∀ sw, ∃ sig ob now, debounceEnd s sw = { s with sig := sig, outbox := ob, now := now })
      ∧ (∀ pi, ∃ sig ob now, windowEnds s pi = { s with sig := sig, outbox := ob, now := now })
      ∧ (∀ pi, ∃ sig ob, risingEdge s pi = { s with sig := sig, outbox := ob })
      ∧ (∀ sw b, ∃ sig, levelChange s sw b = { s with sig := sig }) := by
  refine ⟨fun i => ?_, fun sw => ?_, fun pi => ?_, fun pi => ?_, fun sw b => ?_⟩
  · simp only [staleExpiry]; split <;> exact ⟨_, _, _, rfl⟩
  · simp only [debounceEnd]
    split
    · exact ⟨_, _, _, rfl⟩
    · split <;> exact ⟨_, _, _, rfl⟩
  · simp only [windowEnds]; split <;> exact ⟨_, _, _, rfl⟩
  · simp only [risingEdge]
    split
    · exact ⟨_, _, rfl⟩
    · exact ⟨_, _, rfl⟩
    · split <;> exact ⟨_, _, rfl⟩
  · simp only [levelChange]
    split
    · exact ⟨_, rfl⟩
    · split <;> exact ⟨_, rfl⟩

/-- A fold of operations that change SIG's state and deliveries does the same. -/
theorem foldl_sig_frame {β : Type} (f : State → β → State)
    (h : ∀ s x, ∃ sig ob, f s x = { s with sig := sig, outbox := ob }) :
    ∀ (xs : List β) (s : State), ∃ sig ob, xs.foldl f s = { s with sig := sig, outbox := ob }
  | [], s => ⟨s.sig, s.outbox, rfl⟩
  | x :: xs, s => by
    obtain ⟨_, _, h1⟩ := h s x
    obtain ⟨_, _, h2⟩ := foldl_sig_frame f h xs (f s x)
    rw [List.foldl_cons, h2, h1]
    exact ⟨_, _, rfl⟩

/-- SIG's taking of a commit changes SIG's state and deliveries (R54, R60, R65). -/
theorem sigCommit_frame (before : Tables) (s : State) :
    ∃ sig ob, sigCommit before s = { s with sig := sig, outbox := ob } := by
  rw [sigCommit]
  obtain ⟨_, _, h1⟩ := foldl_sig_frame (inversionChange before) (fun s i => by
    simp only [inversionChange]
    split
    · exact ⟨s.sig, s.outbox, rfl⟩
    · split <;> exact ⟨_, _, rfl⟩) (List.finRange 6) s
  obtain ⟨_, _, h2⟩ := foldl_sig_frame (pulseChange before) (fun s i => by
    simp only [pulseChange]
    split
    · exact ⟨_, s.outbox, rfl⟩
    · split
      · exact ⟨s.sig, s.outbox, rfl⟩
      all_goals split <;> exact ⟨_, s.outbox, rfl⟩) (List.finRange 4) ((List.finRange 6).foldl (inversionChange before) s)
  obtain ⟨_, _, h3⟩ := foldl_sig_frame (staleTimeChange before) (fun s i => by
    simp only [staleTimeChange]
    split
    · exact ⟨s.sig, s.outbox, rfl⟩
    · split
      · exact ⟨_, s.outbox, rfl⟩
      · split
        · split <;> exact ⟨_, _, rfl⟩
        · exact ⟨s.sig, s.outbox, rfl⟩) ((List.finRange 32).drop 10)
    ((List.finRange 4).foldl (pulseChange before) ((List.finRange 6).foldl (inversionChange before) s))
  rw [h3, h2, h1]
  exact ⟨_, _, rfl⟩

/-! ILK. -/

/-- The taking of the mode changes ILK's state and deliveries at most (R87 to R89). -/
theorem takeMode_frame (s : State) : ∃ ilk ob, takeMode s = { s with ilk := ilk, outbox := ob } := by
  simp only [takeMode]
  split
  · exact ⟨_, _, rfl⟩
  · split <;> exact ⟨_, _, rfl⟩

/-- ILK's state replaced, with deliveries. -/
theorem setIlk_post (s : State) (r : IlkRec) (ds : List Instr) :
    ∃ ilk ob, (s.setIlk r).post ds = { s with ilk := ilk, outbox := ob } := ⟨_, _, rfl⟩

/-- A recomputation changes ILK's state and deliveries (R77, R78). -/
theorem recompute_frame (s : State) : ∃ ilk ob, recompute s = { s with ilk := ilk, outbox := ob } := by
  rw [recompute]; exact setIlk_post ..

/-- A recomputation of a state whose ILK part and deliveries were changed. -/
theorem recompute_frame' (s : State) (ilk : IlkRec) (ob : List Instr) :
    ∃ ilk' ob', recompute { s with ilk := ilk, outbox := ob } = { s with ilk := ilk', outbox := ob' } := by
  obtain ⟨_, _, h⟩ := recompute_frame { s with ilk := ilk, outbox := ob }
  exact ⟨_, _, h⟩

/-- The end of a taking changes ILK's state and deliveries (R77). -/
theorem takeConds_frame (s : State) (before : Mode) (f : Cond → Tri → Tri) :
    ∃ ilk ob, takeConds s before f = { s with ilk := ilk, outbox := ob } := by
  rw [takeConds]
  generalize memMap s (reachConds s before f) = m
  exact recompute_frame' s { s.ilk with mem := m } s.outbox

/-- The end of a taking of a state whose ILK part and deliveries were changed. -/
theorem takeConds_frame' (s : State) (ilk : IlkRec) (ob : List Instr) (before : Mode) (f : Cond → Tri → Tri) :
    ∃ ilk' ob', takeConds { s with ilk := ilk, outbox := ob } before f = { s with ilk := ilk', outbox := ob' } := by
  obtain ⟨_, _, h⟩ := takeConds_frame { s with ilk := ilk, outbox := ob } before f
  exact ⟨_, _, h⟩

/-- ILK's taking of a slot event changes ILK's state and deliveries (R77). -/
theorem ilkTakeSlot_frame (s : State) (e : SlotEvent) :
    ∃ ilk ob, ilkTakeSlot s e = { s with ilk := ilk, outbox := ob } := by
  obtain ⟨ilk, ob, h⟩ := takeMode_frame (s.setStopped (latchAfterEvent s e))
  rw [ilkTakeSlot, h]
  split <;> exact takeConds_frame' s _ _ _ _

/-- ILK's taking of a drive state change changes ILK's state and deliveries (R86). -/
theorem ilkTakeDrive_frame (s : State) (c : Channel) :
    ∃ ilk ob, ilkTakeDrive s c = { s with ilk := ilk, outbox := ob } := by
  obtain ⟨ilk, ob, h⟩ := takeMode_frame s
  rw [ilkTakeDrive, h]
  split
  · exact takeConds_frame s _ _
  · exact takeConds_frame' s _ _ _ _

/-- ILK's taking of a commit changes ILK's state and deliveries (R80). -/
theorem ilkCommit_frame (s : State) : ∃ ilk ob, ilkCommit s = { s with ilk := ilk, outbox := ob } := by
  obtain ⟨ilk, ob, h⟩ := takeMode_frame (s.setStopped (latchAtCommit s))
  rw [ilkCommit, h]
  exact recompute_frame' ..

/-- ILK's taking of the beginning of RUN changes ILK's state and deliveries (R81). -/
theorem ilkBegin_frame (s : State) : ∃ ilk ob, ilkBegin s = { s with ilk := ilk, outbox := ob } := by
  rw [ilkBegin]; exact recompute_frame' s _ s.outbox

/-! FRE. -/

/-- Forwarding changes FRE's state, port records and deliveries at most (R28, R30, R42). -/
theorem forwardVia_frame (s : State) (k : Option (Fin 16)) (f : Frame) (p : Port) (e : Fin 96) :
    ∃ fre cp bp ob, forwardVia s k f p e = { s with fre := fre, cp := cp, bp := bp, outbox := ob } := by
  simp only [forwardVia]
  split
  · obtain ⟨cp, bp, ob, h⟩ := queueForwarded_frame s p.other (forwardRequest s f p e)
    exact ⟨_, cp, bp, ob, h⟩
  · split
    · exact ⟨_, _, _, _, rfl⟩
    · rename_i k _ g _
      obtain ⟨cp, bp, ob, h⟩ := queueForwarded_frame s p.other (forwardRequest s g p e)
      rw [h]
      split <;> exact ⟨_, _, _, _, rfl⟩

/-- Forwarding leaves the Hold Buffer as it is. -/
theorem forwardVia_hold (s : State) (k : Option (Fin 16)) (f : Frame) (p : Port) (e : Fin 96) :
    (forwardVia s k f p e).fre.hold = s.fre.hold := by
  simp only [forwardVia]
  split
  · obtain ⟨cp, bp, ob, h⟩ := queueForwarded_frame s p.other (forwardRequest s f p e)
    rw [h]
  · split
    · rfl
    · rename_i k _ g _
      obtain ⟨cp, bp, ob, h⟩ := queueForwarded_frame s p.other (forwardRequest s g p e)
      rw [h]
      split <;> rfl

/-- The closed treatment changes FRE's state, port records and deliveries at most (R26). -/
theorem closedTreatment_frame (s : State) (f : Frame) (p : Port) (e : Fin 96) (t : Fin 24) (r : Tri) :
    ∃ fre cp bp ob, closedTreatment s f p e t r = { s with fre := fre, cp := cp, bp := bp, outbox := ob } := by
  have sub : ∃ fre cp bp ob, substitute s f p e = { s with fre := fre, cp := cp, bp := bp, outbox := ob } := by
    simp only [substitute]
    split
    · exact ⟨_, _, _, _, rfl⟩
    · exact forwardVia_frame ..
  obtain ⟨fre, cp, bp, ob, h⟩ := sub
  simp only [closedTreatment, h]
  split <;> exact ⟨_, _, _, _, rfl⟩

/-- The closed treatment leaves the Hold Buffer as it is. -/
theorem closedTreatment_hold (s : State) (f : Frame) (p : Port) (e : Fin 96) (t : Fin 24) (r : Tri) :
    (closedTreatment s f p e t r).fre.hold = s.fre.hold := by
  have sub : (substitute s f p e).fre.hold = s.fre.hold := by
    simp only [substitute]
    split
    · rfl
    · exact forwardVia_hold ..
  simp only [closedTreatment]
  split
  · exact sub
  · exact sub

/-- A fold of operations that change only FRE's state, port records and deliveries does the same. -/
theorem foldl_fre_frame {β : Type} (f : State → β → State)
    (h : ∀ s x, ∃ fre cp bp ob, f s x = { s with fre := fre, cp := cp, bp := bp, outbox := ob }) :
    ∀ (xs : List β) (s : State), ∃ fre cp bp ob, xs.foldl f s = { s with fre := fre, cp := cp, bp := bp, outbox := ob }
  | [], s => ⟨s.fre, s.cp, s.bp, s.outbox, rfl⟩
  | x :: xs, s => by
    obtain ⟨_, _, _, _, h1⟩ := h s x
    obtain ⟨_, _, _, _, h2⟩ := foldl_fre_frame f h xs (f s x)
    rw [List.foldl_cons, h2, h1]
    exact ⟨_, _, _, _, rfl⟩

/-- FRE's taking of a rise changes FRE's state, port records and deliveries at most (R38). -/
theorem takeRise_frame (s : State) (t : Fin 24) :
    ∃ fre cp bp ob, takeRise s t = { s with fre := fre, cp := cp, bp := bp, outbox := ob } := by
  simp only [takeRise]
  split
  · obtain ⟨_, _, _, _, h⟩ := foldl_fre_frame releaseOne (fun s h => forwardVia_frame s _ _ _ _)
      (s.fre.hold.filter fun h => h.term == t) (s.setHold (s.fre.hold.filter fun h => h.term != t))
    rw [h]; exact ⟨_, _, _, _, rfl⟩
  · exact ⟨_, _, _, _, rfl⟩

/-- FRE's taking of a rise of a TRUE term leaves held the frames on other terms (R38). -/
theorem takeRise_hold (s : State) (t : Fin 24) :
    (takeRise s t).fre.hold = if s.term t = .tt then s.fre.hold.filter (fun h => h.term != t) else s.fre.hold := by
  simp only [takeRise]
  split
  · exact foldl_keeps (fun s => s.fre.hold) releaseOne (fun s h => forwardVia_hold s _ _ _ _) _ _
  · rfl

/-- FRE's taking of a ceiling fall changes FRE's state, port records and deliveries at most (R43). -/
theorem takeFall_frame (s : State) :
    ∃ fre cp bp ob, takeFall s = { s with fre := fre, cp := cp, bp := bp, outbox := ob } := by
  rw [takeFall]
  refine foldl_fre_frame reissueOne (fun s k => ?_) _ _
  simp only [reissueOne]
  split
  · exact ⟨_, _, _, _, rfl⟩
  · rename_i r _
    split
    · obtain ⟨_, _, _, h⟩ := queueForwarded_frame s r.target
        { frame := reissued s r, arrival := r.arrival, entry := some r.entry, mark := true }
      rw [h]; exact ⟨_, _, _, _, rfl⟩
    · exact ⟨_, _, _, _, rfl⟩

/-- FRE's taking of a ceiling fall leaves the Hold Buffer as it is. -/
theorem takeFall_hold (s : State) : (takeFall s).fre.hold = s.fre.hold := by
  rw [takeFall]
  refine foldl_keeps (fun s => s.fre.hold) reissueOne (fun s k => ?_) _ _
  simp only [reissueOne]
  split
  · rfl
  · rename_i r _
    split
    · obtain ⟨_, _, _, h⟩ := queueForwarded_frame s r.target
        { frame := reissued s r, arrival := r.arrival, entry := some r.entry, mark := true }
      rw [h]; rfl
    · rfl

/-- A frame offered to the Hold Buffer: FRE's state, port records and deliveries at most (R35 to R37). -/
theorem offerHold_frame (s : State) (f : Frame) (p : Port) (e : Fin 96) (t : Fin 24) :
    ∃ fre cp bp ob, offerHold s f p e t = { s with fre := fre, cp := cp, bp := bp, outbox := ob } := by
  simp only [offerHold]
  split
  · exact ⟨_, _, _, _, rfl⟩
  · split
    · obtain ⟨_, _, _, _, h⟩ := closedTreatment_frame s f p e t (s.term t)
      simp only [holdOverflow, h]; exact ⟨_, _, _, _, rfl⟩
    · exact ⟨_, _, _, _, rfl⟩

/-- A held frame's deadline: FRE's state, port records, deliveries and the clock at most (R39). -/
theorem holdDeadline_frame (s : State) (id : Ident) :
    ∃ fre cp bp ob now, holdDeadline s id = { s with fre := fre, cp := cp, bp := bp, outbox := ob, now := now } := by
  simp only [holdDeadline]
  split
  · exact ⟨_, _, _, _, _, rfl⟩
  · rename_i h _
    obtain ⟨_, _, _, _, e⟩ := closedTreatment_frame ((s.clock h.deadline).setHold (s.fre.hold.erase h)) h.frame h.arrival
      h.entry h.term (((s.clock h.deadline).setHold (s.fre.hold.erase h)).term h.term)
    simp only [holdExpiry, e]; exact ⟨_, _, _, _, _, rfl⟩

/-- An unmatched frame: port records and deliveries at most (R4, R21). -/
theorem unmatched_frame (s : State) (p : Port) (f : Frame) :
    ∃ cp bp ob, unmatched s p f = { s with cp := cp, bp := bp, outbox := ob } := by
  simp only [unmatched]
  split
  · exact queueForwarded_frame ..
  · exact ⟨_, _, _, rfl⟩

/-- The action of an entry: FRE's state, port records and deliveries at most (R24, R25, R27). -/
theorem frameAction_frame (s : State) (f : Frame) (p : Port) (e : Fin 96) :
    ∃ fre cp bp ob, frameAction s f p e = { s with fre := fre, cp := cp, bp := bp, outbox := ob } := by
  simp only [frameAction]
  split
  · exact forwardVia_frame ..
  · exact ⟨_, _, _, _, rfl⟩
  · simp only [gateFrame]
    split
    · exact forwardVia_frame ..
    · exact closedTreatment_frame ..
  · simp only [holdFrame]
    split
    · obtain ⟨_, _, _, _, h⟩ := forwardVia_frame (s.setHold (s.fre.hold.filter fun x => !x.same f.ident e))
        (frtOpen (s.entry e)) f p e
      rw [h]; exact ⟨_, _, _, _, rfl⟩
    · exact offerHold_frame ..
  · exact ⟨_, _, _, _, rfl⟩

/-! DRV. -/

/-- A channel's new context: its own context and line, and deliveries (R95). -/
theorem enter_frame (s : State) (c : Channel) (r : ChannelRec) :
    ∃ ob, enter s c r = { (s.setChan c r).setLine c (lineOn r.state) with outbox := ob } := by
  simp only [enter]
  split <;> exact ⟨_, rfl⟩

/-- DRV's operations change DRV's state, the output lines and deliveries at most. -/
theorem enter_frame' (s : State) (c : Channel) (r : ChannelRec) :
    ∃ drv outs ob, enter s c r = { s with drv := drv, outs := outs, outbox := ob } := by
  obtain ⟨_, h⟩ := enter_frame s c r
  rw [h]; exact ⟨_, _, _, rfl⟩

/-- An entry to RELEASING: DRV's state, the output lines and deliveries at most (R92). -/
theorem enterReleasing_frame (s : State) (c : Channel) (w : AbortCause) :
    ∃ drv outs ob, enterReleasing s c w = { s with drv := drv, outs := outs, outbox := ob } := enter_frame' ..

/-- An entry to FAULTED: DRV's state, the output lines and deliveries at most (R92). -/
theorem enterFaulted_frame (s : State) (c : Channel) (w : FailCause) (k : ExcClass) :
    ∃ drv outs ob, enterFaulted s c w k = { s with drv := drv, outs := outs, outbox := ob } := by
  obtain ⟨_, _, _, h⟩ := enter_frame' s c { s.chan c with state := .faulted, timer := none, outcome := some (.failed w) }
  rw [enterFaulted, h]; exact ⟨_, _, _, rfl⟩

/-- A refusal: DRV's state and deliveries at most (R99, R100). -/
theorem refuse_frame (s : State) (c : Channel) (w : RefuseReason) :
    ∃ drv outs ob, refuse s c w = { s with drv := drv, outs := outs, outbox := ob } := by
  simp only [refuse]
  split <;> exact ⟨_, _, _, rfl⟩

/-- An engage request: DRV's state, the output lines and deliveries at most (R98, R99). -/
theorem engage_frame (s : State) (c : Channel) (o : Origin) :
    ∃ drv outs ob, (engage s c o).1 = { s with drv := drv, outs := outs, outbox := ob } := by
  simp only [engage]
  split
  · split
    · exact refuse_frame ..
    · exact enter_frame' ..
  all_goals first
    | exact ⟨_, _, _, rfl⟩
    | exact refuse_frame ..

/-- A disengage request: DRV's state, the output lines and deliveries at most (R108). -/
theorem disengage_frame (s : State) (c : Channel) :
    ∃ drv outs ob, (disengage s c).1 = { s with drv := drv, outs := outs, outbox := ob } := by
  simp only [disengage]
  split
  all_goals first
    | exact enterReleasing_frame ..
    | exact ⟨_, _, _, rfl⟩

/-- A slot event at one channel: DRV's state, the output lines and deliveries at most (R97, R105, R107). -/
theorem channelSlot_frame (e : SlotEvent) (s : State) (c : Channel) :
    ∃ drv outs ob, channelSlot e s c = { s with drv := drv, outs := outs, outbox := ob } := by
  have hr : ∃ drv outs ob, channelRequest e s c = { s with drv := drv, outs := outs, outbox := ob } := by
    simp only [channelRequest]
    split
    · split
      · exact engage_frame ..
      · exact disengage_frame ..
      · exact ⟨_, _, _, rfl⟩
    · exact ⟨_, _, _, rfl⟩
  obtain ⟨d, o, b, hr⟩ := hr
  have hc : ∀ u : State, ∃ drv outs ob, channelCheck e u c = { u with drv := drv, outs := outs, outbox := ob } := by
    intro u
    simp only [channelCheck]
    split
    · split
      · exact enter_frame' ..
      · exact ⟨_, _, _, rfl⟩
    · split
      · exact enterFaulted_frame ..
      · exact ⟨_, _, _, rfl⟩
    · exact ⟨_, _, _, rfl⟩
  rw [channelSlot, hr]
  obtain ⟨_, _, _, h⟩ := hc { s with drv := d, outs := o, outbox := b }
  rw [h]; exact ⟨_, _, _, rfl⟩

/-- A fall of a term at one channel: DRV's state, the output lines and deliveries at most (R110). -/
theorem channelFall_frame (t : Fin 24) (s : State) (c : Channel) :
    ∃ drv outs ob, channelFall t s c = { s with drv := drv, outs := outs, outbox := ob } := by
  have hr : ∀ x : Raise, ∃ drv outs ob, (enterReleasing s c .permitLost).raise x =
      { s with drv := drv, outs := outs, outbox := ob } := fun x => by
    obtain ⟨_, _, _, h⟩ := enterReleasing_frame s c .permitLost
    rw [h]; exact ⟨_, _, _, rfl⟩
  simp only [channelFall]
  split
  · split
    · exact hr _
    · exact hr _
    · split
      · exact hr _
      · exact ⟨_, _, _, rfl⟩
    all_goals exact ⟨_, _, _, rfl⟩
  · exact ⟨_, _, _, rfl⟩

/-- A lapse at one channel: DRV's state, the output lines and deliveries at most (R112). -/
theorem channelLapse_frame (s : State) (c : Channel) :
    ∃ drv outs ob, channelLapse s c = { s with drv := drv, outs := outs, outbox := ob } := by
  simp only [channelLapse]
  split
  all_goals first
    | exact enterReleasing_frame ..
    | exact ⟨_, _, _, rfl⟩

/-- A run-dry request: DRV's state, the output lines and deliveries at most (R113). -/
theorem runDry_frame (s : State) (c : Channel) :
    ∃ drv outs ob, runDry s c = { s with drv := drv, outs := outs, outbox := ob } := by
  simp only [runDry]
  split
  · exact enterReleasing_frame ..
  · exact ⟨_, _, _, rfl⟩

/-- A fold of operations that change only DRV's state, the output lines and deliveries does the same. -/
theorem foldl_drv_frame {β : Type} (f : State → β → State)
    (h : ∀ s x, ∃ drv outs ob, f s x = { s with drv := drv, outs := outs, outbox := ob }) :
    ∀ (xs : List β) (s : State), ∃ drv outs ob, xs.foldl f s = { s with drv := drv, outs := outs, outbox := ob }
  | [], s => ⟨s.drv, s.outs, s.outbox, rfl⟩
  | x :: xs, s => by
    obtain ⟨_, _, _, h1⟩ := h s x
    obtain ⟨_, _, _, h2⟩ := foldl_drv_frame f h xs (f s x)
    rw [List.foldl_cons, h2, h1]
    exact ⟨_, _, _, rfl⟩

/-! TNK and CSU. -/

/-- A taking in TNK: TNK's state, its two lines and deliveries (R143). -/
theorem tnkTake_frame (s : State) (n : TnkRec) (b : Bool) :
    ∃ ob, tnkTake s n b = { s.withTnk (endTaking s.active s.now n) with outbox := ob } := ⟨_, rfl⟩

/-- The end of a taking in CSU: CSU's state and deliveries (R155). -/
theorem csuFinish_frame (s : State) (c : CsuRec) :
    ∃ ob, csuFinish s c = { s with csu := applyTarget s.active s.now c, outbox := ob } := ⟨_, rfl⟩

/-! Takings. -/

/-- The command of a delivery that a block takes does in RUN what the taking does. -/
theorem exec_takeEvent (d : Instr) (s : State) (h : receiver d ≠ none) : exec d s = .next (s.inRun (takeEvent d)) := by
  cases d <;> first
    | rfl
    | exact absurd rfl h

/-- A taking changes the states of the blocks but SIG, port records, output lines and deliveries at most. -/
theorem takeEvent_frame (d : Instr) (s : State) :
    ∃ cp bp fre ilk drv tnk csu exc outs ob, takeEvent d s =
      { s with cp := cp, bp := bp, fre := fre, ilk := ilk, drv := drv, tnk := tnk, csu := csu, exc := exc, outs := outs,
               outbox := ob } := by
  have fre {u : State} (h : ∃ fre cp bp ob, u = { s with fre := fre, cp := cp, bp := bp, outbox := ob }) :
      ∃ cp bp fre ilk drv tnk csu exc outs ob, u =
        { s with cp := cp, bp := bp, fre := fre, ilk := ilk, drv := drv, tnk := tnk, csu := csu, exc := exc, outs := outs,
                 outbox := ob } := by
    obtain ⟨_, _, _, _, h⟩ := h
    exact ⟨_, _, _, _, _, _, _, _, _, _, h⟩
  have ilk {u : State} (h : ∃ ilk ob, u = { s with ilk := ilk, outbox := ob }) :
      ∃ cp bp fre ilk drv tnk csu exc outs ob, u =
        { s with cp := cp, bp := bp, fre := fre, ilk := ilk, drv := drv, tnk := tnk, csu := csu, exc := exc, outs := outs,
                 outbox := ob } := by
    obtain ⟨_, _, h⟩ := h
    exact ⟨_, _, _, _, _, _, _, _, _, _, h⟩
  have drv {u : State} (h : ∃ drv outs ob, u = { s with drv := drv, outs := outs, outbox := ob }) :
      ∃ cp bp fre ilk drv tnk csu exc outs ob, u =
        { s with cp := cp, bp := bp, fre := fre, ilk := ilk, drv := drv, tnk := tnk, csu := csu, exc := exc, outs := outs,
                 outbox := ob } := by
    obtain ⟨_, _, _, h⟩ := h
    exact ⟨_, _, _, _, _, _, _, _, _, _, h⟩
  cases d
  case ilkSlotEvent e => exact ilk (by obtain ⟨_, _, h⟩ := ilkTakeSlot_frame (s.taken (.ilkSlotEvent e)) e; exact ⟨_, _, h⟩)
  case ilkDriveStateChange c =>
    exact ilk (by obtain ⟨_, _, h⟩ := ilkTakeDrive_frame (s.taken (.ilkDriveStateChange c)) c; exact ⟨_, _, h⟩)
  case ilkBandChange k =>
    exact ilk (by
      obtain ⟨_, _, h⟩ := takeConds_frame (s.taken (.ilkBandChange k)) s.ilk.mode (bandReach (s.taken (.ilkBandChange k)) k)
      exact ⟨_, _, h⟩)
  case ilkSupplyChange =>
    exact ilk (by
      obtain ⟨_, _, h⟩ := takeConds_frame (s.taken .ilkSupplyChange) s.ilk.mode (supplyReach (s.taken .ilkSupplyChange))
      exact ⟨_, _, h⟩)
  case drvSlotEvent e =>
    exact drv (by
      obtain ⟨_, _, _, h⟩ := foldl_drv_frame (channelSlot e) (channelSlot_frame e) Channel.all (s.taken (.drvSlotEvent e))
      exact ⟨_, _, _, h⟩)
  case permitTermFall t =>
    exact drv (by
      obtain ⟨_, _, _, h⟩ := foldl_drv_frame (channelFall t) (channelFall_frame t) Channel.all (s.taken (.permitTermFall t))
      exact ⟨_, _, _, h⟩)
  case supervisionLapse =>
    exact drv (by
      obtain ⟨_, _, _, h⟩ := foldl_drv_frame channelLapse channelLapse_frame Channel.all (s.taken .supervisionLapse)
      exact ⟨_, _, _, h⟩)
  case runDryRequest c =>
    exact drv (by obtain ⟨_, _, _, h⟩ := runDry_frame (s.taken (.runDryRequest c)) c; exact ⟨_, _, _, h⟩)
  case termRiseAtFre t =>
    exact fre (by obtain ⟨_, _, _, _, h⟩ := takeRise_frame (s.taken (.termRiseAtFre t)) t; exact ⟨_, _, _, _, h⟩)
  case ceilingFall => exact fre (by obtain ⟨_, _, _, _, h⟩ := takeFall_frame (s.taken .ceilingFall); exact ⟨_, _, _, _, h⟩)
  case exceptionRaise r =>
    obtain ⟨_, _, _, _, h⟩ := excTake_frame (s.taken (.exceptionRaise r)) r
    exact ⟨_, _, _, _, _, _, _, _, _, _, h⟩
  all_goals exact ⟨_, _, _, _, _, _, _, _, _, _, rfl⟩

/-- A block's taking of its oldest delivery, where there is one, is a taking of a delivery that waits for it. -/
theorem takeOldest_cases (s : State) (b : Block) :
    takeOldest s b = s ∨ ∃ d ∈ s.outbox, receiver d = some b ∧ takeOldest s b = takeEvent d s := by
  rw [takeOldest]
  split
  · exact .inl rfl
  · rename_i d h
    exact .inr ⟨d, List.mem_of_find?_eq_some h, by simpa using List.find?_some h, rfl⟩

/-- What is left of a list after erasures stood in it. -/
theorem mem_of_mem_foldl_erase {α : Type} [DecidableEq α] {x : α} :
    ∀ {old l : List α}, x ∈ old.foldl List.erase l → x ∈ l
  | [], _, h => h
  | _ :: _, _, h => List.mem_of_mem_erase (mem_of_mem_foldl_erase h)

/-- What a block takes between two steps of a COMMIT is a delivery that waits for it, or nothing; and where the block does not
work under the new tables yet, a change that R192 lets come before its step. -/
theorem takeBetween_cases (ready : List Block) (old : List Instr) (s : State) (b : Block) :
    takeBetween ready old s b = s ∨ ∃ d ∈ s.outbox, receiver d = some b ∧ (b ∈ ready ∨ commitChange d = true) ∧
      takeBetween ready old s b = takeEvent d s := by
  rw [takeBetween]
  split
  · rename_i hb
    rcases takeOldest_cases s b with e | ⟨d, hd, hr, e⟩
    · exact .inl e
    · exact .inr ⟨d, hd, hr, .inl hb, e⟩
  · split
    · exact .inl rfl
    · rename_i d h
      have hp := List.find?_some h
      simp only [Bool.and_eq_true, beq_iff_eq] at hp
      exact .inr ⟨d, mem_of_mem_foldl_erase (List.mem_of_find?_eq_some h), hp.1, .inr hp.2, rfl⟩

/-- The blocks that work wholly under the new tables: EXC at every place, all but CSU after the step of ILK, all after that of
CSU (R191). -/
theorem mem_readyAfter (k : Nat) (b : Block) : b ∈ readyAfter k ↔ b = .exc ∨ (k = 4 ∧ b ≠ .csu) ∨ 4 < k := by
  unfold readyAfter
  split
  · simp; omega
  · split
    · cases b <;> simp [*]
    · have : 4 < k := by omega
      cases b <;> simp [*]

/-- A property that every taking keeps holds after the takings between two steps of a COMMIT. -/
theorem commitTurn_inv (P : State → Prop) (h : ∀ d s, P s → P (takeEvent d s)) (order : List (List Block)) (old : List Instr)
    (k : Nat) (s : State) (hs : P s) : P (commitTurn order old k s) :=
  foldl_inv P _ (fun s b hs => by
    rcases takeBetween_cases (readyAfter k) old s b with e | ⟨d, _, _, _, e⟩
    · rw [e]; exact hs
    · rw [e]; exact h d s hs) _ s hs

/-- A part of the state that no taking changes is the same after the takings between two steps of a COMMIT. -/
theorem commitTurn_keeps {α : Type} (π : State → α) (h : ∀ d s, π (takeEvent d s) = π s) (order : List (List Block))
    (old : List Instr) (k : Nat) (s : State) : π (commitTurn order old k s) = π s :=
  commitTurn_inv (fun u => π u = π s) (fun d u hu => (h d u).trans hu) order old k s rfl

/-- Before the step of ILK the takings of a COMMIT change EXC, ILK and CSU with what they queue and deliver, and so neither the
Hold Buffer and the reissue records, nor the slots, the drives and the tanks (R20, R145, R192). -/
theorem commitTurn_frame (order : List (List Block)) (old : List Instr) (k : Nat) (hk : k < 4) (s : State) :
    ∃ cp bp ilk csu exc alarm ob, commitTurn order old k s =
      { s with cp := cp, bp := bp, ilk := ilk, csu := csu, exc := exc, outs := { s.outs with alarm := alarm },
               outbox := ob } := by
  refine foldl_inv (fun u => ∃ cp bp ilk csu exc alarm ob, u =
    { s with cp := cp, bp := bp, ilk := ilk, csu := csu, exc := exc, outs := { s.outs with alarm := alarm }, outbox := ob })
    _ ?_ _ s ⟨_, _, _, _, _, _, _, rfl⟩
  rintro u b ⟨cp, bp, ilk, csu, exc, alarm, ob, hu⟩
  rcases takeBetween_cases (readyAfter k) old u b with e | ⟨d, -, hr, hd, e⟩
  · exact ⟨_, _, _, _, _, _, _, e.trans hu⟩
  · rw [readyAfter, if_pos hk, List.mem_singleton] at hd
    rw [e]
    subst hu
    rcases hd with rfl | hd
    · cases d <;> try (cases hr; done)
      rename_i r
      obtain ⟨_, _, _, _, h⟩ := excTake_frame (State.taken _ (.exceptionRaise r)) r
      exact ⟨_, _, _, _, _, _, _, h⟩
    · cases d <;> try (cases hd; done)
      case ilkBandChange t =>
        obtain ⟨_, _, h⟩ := takeConds_frame (State.taken _ (.ilkBandChange t)) ilk.mode
          (bandReach (State.taken _ (.ilkBandChange t)) t)
        exact ⟨_, _, _, _, _, _, _, h⟩
      case ilkSupplyChange =>
        obtain ⟨_, _, h⟩ := takeConds_frame (State.taken _ .ilkSupplyChange) ilk.mode
          (supplyReach (State.taken _ .ilkSupplyChange))
        exact ⟨_, _, _, _, _, _, _, h⟩
      case csuInputDelivery i =>
        obtain ⟨_, h⟩ := csuFinish_frame (State.taken _ (.csuInputDelivery i)) (heldInput csu i)
        exact ⟨_, _, _, _, _, _, _, h⟩

/-- Takings leave an empty Hold Buffer and empty reissue records as they are (R192). -/
theorem takeEvent_fre_empty (d : Instr) (s : State) (h : s.fre = { }) : (takeEvent d s).fre = { } := by
  have hl : ∀ (ks : List (Fin 16)) (u : State), u.fre = { } → (ks.foldl reissueOne u).fre = { } :=
    foldl_inv (fun u => u.fre = { }) reissueOne (fun u k hu => by
      have : u.fre.reissue.get k = none := by rw [hu]; exact Vector.getElem_replicate ..
      rw [reissueOne, this]; exact hu)
  cases d
  case ilkSlotEvent e =>
    obtain ⟨_, _, e1⟩ := ilkTakeSlot_frame (s.taken (.ilkSlotEvent e)) e
    rw [takeEvent, ilkSlotTaking, e1]; exact h
  case ilkDriveStateChange c =>
    obtain ⟨_, _, e1⟩ := ilkTakeDrive_frame (s.taken (.ilkDriveStateChange c)) c
    rw [takeEvent, ilkDriveTaking, e1]; exact h
  case ilkBandChange k =>
    obtain ⟨_, _, e1⟩ := takeConds_frame (s.taken (.ilkBandChange k)) s.ilk.mode (bandReach (s.taken (.ilkBandChange k)) k)
    exact (congrArg State.fre e1).trans h
  case ilkSupplyChange =>
    obtain ⟨_, _, e1⟩ := takeConds_frame (s.taken .ilkSupplyChange) s.ilk.mode (supplyReach (s.taken .ilkSupplyChange))
    exact (congrArg State.fre e1).trans h
  case drvSlotEvent e =>
    obtain ⟨_, _, _, e1⟩ := foldl_drv_frame (channelSlot e) (channelSlot_frame e) Channel.all (s.taken (.drvSlotEvent e))
    exact (congrArg State.fre e1).trans h
  case permitTermFall t =>
    obtain ⟨_, _, _, e1⟩ := foldl_drv_frame (channelFall t) (channelFall_frame t) Channel.all (s.taken (.permitTermFall t))
    exact (congrArg State.fre e1).trans h
  case supervisionLapse =>
    obtain ⟨_, _, _, e1⟩ := foldl_drv_frame channelLapse channelLapse_frame Channel.all (s.taken .supervisionLapse)
    exact (congrArg State.fre e1).trans h
  case runDryRequest c =>
    obtain ⟨_, _, _, e1⟩ := runDry_frame (s.taken (.runDryRequest c)) c
    exact (congrArg State.fre e1).trans h
  case termRiseAtFre t =>
    have e1 : (s.taken (.termRiseAtFre t)).fre.hold = [] := by rw [State.taken]; exact congrArg FreRec.hold h
    rw [takeEvent, freRiseTaking, takeRise, e1]
    split
    · exact congrArg (fun r : FreRec => { r with hold := [] }) h
    · exact h
  case ceilingFall => exact hl _ _ h
  case exceptionRaise r =>
    obtain ⟨_, _, _, _, e1⟩ := excTake_frame (s.taken (.exceptionRaise r)) r
    rw [takeEvent, excRaiseTaking, e1]; exact h
  all_goals exact h

/-- What a block takes within a frame is a delivery taken, or nothing. -/
theorem takeWithin_cases (n : Nat) (s : State) (b : Block) :
    takeWithin n s b = s ∨ ∃ d, receiver d = some b ∧ takeWithin n s b = takeEvent d s := by
  rw [takeWithin]
  split
  · rename_i hb
    split
    · exact .inl rfl
    · rename_i t _
      exact .inr ⟨.termRiseAtFre t, by rw [hb]; rfl, rfl⟩
  · rcases takeOldest_cases s b with e | ⟨d, _, h, e⟩
    · exact .inl e
    · exact .inr ⟨d, h, e⟩

/-- A part of the state that no taking changes is, after an extraction's write, what the write makes it. -/
theorem writeExtraction_keeps {α : Type} (π : State → α) (h : ∀ d s, π (takeEvent d s) = π s) (n : Nat) (f : Frame)
    (e : Fin 96) (first : List Block) (s : State) (x : Extraction) :
    π (writeExtraction n f e first s x) = π (writeSlot s x.slot (x.value f.data) (.entry e)) := by
  have hf := foldl_keeps π (takeWithin n) (fun s b => by
    rcases takeWithin_cases n s b with e | ⟨d, _, e⟩
    · rw [e]
    · rw [e, h]) first (writeSlot s x.slot (x.value f.data) (.entry e))
  simp only [writeExtraction]
  split
  · exact (h (.ilkSlotEvent _) _).trans hf
  · exact hf

/-- A part of the state that no taking changes is, after step 1 of R22, what the writes make it. -/
theorem extract_writes {α : Type} (π : State → α) (ht : ∀ d s, π (takeEvent d s) = π s) (s : State)
    (order : List (List Block)) (f : Frame) (e : Fin 96) (xs : List Extraction) :
    π (extract s order f e xs) = π (writeAll (waitingRises s).length f e order xs s) :=
  foldl_keeps π (fun s t => freRiseTaking t s) (fun s t => ht (.termRiseAtFre t) s) _ _

/-- A part of the state that neither a slot write nor a taking changes is the same after step 1 of R22. -/
theorem extract_keeps {α : Type} (π : State → α) (hw : ∀ s i v w, π (writeSlot s i v w) = π s)
    (ht : ∀ d s, π (takeEvent d s) = π s) (s : State) (order : List (List Block)) (f : Frame) (e : Fin 96)
    (xs : List Extraction) : π (extract s order f e xs) = π s :=
  (extract_writes π ht s order f e xs).trans
    (foldl_keeps π _ (fun s x => by rw [writeExtraction_keeps π ht, hw]) _ _)

/-- The handling of a frame by FRE keeps the phase, the active set, MGT's state, the clock, the free counter and the queue of
commands (R19 to R28). -/
theorem freTake_keeps (s : State) (a : Arrival) (f : Frame) :
    (freTake s a f).sys = s.sys ∧ (freTake s a f).active = s.active ∧ (freTake s a f).mgt = s.mgt ∧
      (freTake s a f).now = s.now ∧ (freTake s a f).free = s.free ∧ (freTake s a f).pending = s.pending := by
  have he := extract_keeps (fun u => (u.sys, u.active, u.mgt, u.now, u.free, u.pending)) (fun _ _ _ _ => rfl)
    (fun d u => by obtain ⟨_, _, _, _, _, _, _, _, _, _, h⟩ := takeEvent_frame d u; rw [h])
  have hk : ∀ u : State, (u.sys, u.active, u.mgt, u.now, u.free, u.pending) =
        (s.sys, s.active, s.mgt, s.now, s.free, s.pending) →
      u.sys = s.sys ∧ u.active = s.active ∧ u.mgt = s.mgt ∧ u.now = s.now ∧ u.free = s.free ∧ u.pending = s.pending :=
    fun u h => by simpa using h
  apply hk
  simp only [freTake]
  split
  · obtain ⟨_, _, _, h⟩ := unmatched_frame s a.port f
    rw [h]
  · rename_i e _
    simp only [matched]
    split
    · have hx := he (s.post (rangeRaises s a.port f e (frtExtractions (s.entry e)))) a.order f e
        (writtenExtractions s.active f.data.length (frtExtractions (s.entry e)))
      generalize extract (s.post (rangeRaises s a.port f e (frtExtractions (s.entry e)))) a.order f e
        (writtenExtractions s.active f.data.length (frtExtractions (s.entry e))) = u at hx ⊢
      split
      · obtain ⟨_, _, _, _, h⟩ := frameAction_frame (u.post [.heartbeat]) f a.port e
        rw [h]; exact hx
      · obtain ⟨_, _, _, _, h⟩ := frameAction_frame u f a.port e
        rw [h]; exact hx
    · rfl

/-! Ports, start-up and commits. -/

/-- The end of an attempt changes port records and deliveries at most (R9). -/
theorem attemptEnd_frame (s : State) (p : Port) (b : Bool) :
    ∃ cp bp ob, attemptEnd s p b = { s with cp := cp, bp := bp, outbox := ob } := by
  simp only [attemptEnd, failAttempt, retryOrDrop]
  cases p <;> (repeat' split) <;> exact ⟨_, _, _, rfl⟩

/-- An age deadline changes port records, deliveries and the clock at most (R10). -/
theorem ageExpiry_frame (s : State) (p : Port) (i : Nat) :
    ∃ cp bp ob now, ageExpiry s p i = { s with cp := cp, bp := bp, outbox := ob, now := now } := by
  simp only [ageExpiry]
  cases p <;> split <;> exact ⟨_, _, _, _, rfl⟩

/-- A recovery changes port records and the clock at most (R13). -/
theorem recover_frame (s : State) (p : Port) :
    ∃ cp bp now, recover s p = { s with cp := cp, bp := bp, now := now } := by
  simp only [recover]
  cases p <;> split <;> exact ⟨_, _, _, rfl⟩

/-- Activation changes the active set, MGT's state and the fallback state (R191). -/
theorem activate_frame (s : State) :
    ∃ t mgt, activate s = { s with active := t, mgt := mgt, sys := { s.sys with fallback := false } } := by
  rw [activate]
  generalize s.mgt.shadow.retagged [] = t
  exact ⟨t, _, rfl⟩

/-- The start-up operations of the blocks, one by one. -/
theorem begin_frames (s : State) :
    (∃ sig, sigBegin s = { s with sig := sig }) ∧
      (∃ w a b, tnkBegin s = { s with tnk := { s.tnk with water := w, foamA := a, foamB := b } }) ∧
      (∃ csu, csuBegin s = { s with csu := csu }) ∧
      ∃ ob, csuCommit s = { s with csu := applyTarget s.active s.now s.csu, outbox := ob } :=
  ⟨⟨_, rfl⟩, ⟨_, _, _, rfl⟩, ⟨_, rfl⟩, ⟨_, rfl⟩⟩

/-- The loading of the tables changes them and the ports' rates (R15, R182). -/
theorem loadTables_frame (s : State) (t : Tables) :
    ∃ mgt x y, loadTables s t =
      { s with active := t, mgt := mgt, cp := { s.cp with rate := x }, bp := { s.bp with rate := y } } := ⟨_, _, _, rfl⟩

/-- The beginning of RUN in the blocks (R198). -/
theorem beginRun_frame (s : State) :
    ∃ sig ilk c ob w a b, beginRun s =
      { s with sig := sig, ilk := ilk, csu := applyTarget s.active s.now c, outbox := ob,
               tnk := { s.tnk with water := w, foamA := a, foamB := b } } := by
  obtain ⟨_, h1⟩ := (begin_frames s).1
  obtain ⟨_, _, _, h2⟩ := (begin_frames (sigBegin s)).2.1
  obtain ⟨_, h3⟩ := (begin_frames (tnkBegin (sigBegin s))).2.2.1
  obtain ⟨_, _, h4⟩ := ilkBegin_frame (csuBegin (tnkBegin (sigBegin s)))
  obtain ⟨_, h5⟩ := (begin_frames (ilkBegin (csuBegin (tnkBegin (sigBegin s))))).2.2.2
  rw [beginRun, h5, h4, h3, h2, h1]
  exact ⟨_, _, _, _, _, _, _, rfl⟩

/-- The end of START (R197, R198). -/
theorem endStart_frame (s : State) (good : Bool) :
    ∃ mgt x y sig ilk t c ob w a b, endStart s good =
      { s with sys := s.sys.started good, active := if good then s.sys.store.tables else Tables.fallback,
               mgt := mgt, cp := { s.cp with rate := x }, bp := { s.bp with rate := y }, sig := sig, ilk := ilk,
               csu := applyTarget t s.now c, outbox := ob, tnk := { s.tnk with water := w, foamA := a, foamB := b } } := by
  simp only [endStart]
  generalize (if good then s.sys.store.tables else Tables.fallback) = t
  generalize s.sys.started good = r
  obtain ⟨_, _, _, h1⟩ := loadTables_frame (s.setSys r) t
  obtain ⟨_, _, _, _, _, _, _, h2⟩ := beginRun_frame (loadTables (s.setSys r) t)
  rw [h2, h1]
  split <;> exact ⟨_, _, _, _, _, _, _, _, _, _, _, rfl⟩

end Sys2Proof.Machine
end

