-- ==== Sys2Proof/Laws/Closed.lean ====
section
/-! SUPPORT. What a step can do, said once: a property of states that the elementary operations keep is kept by every
command and by every step. -/

namespace Sys2Proof.Machine

/-- P is kept by the elementary operations that commands are made of. -/
structure Closed (P : State → Prop) : Prop where
  /-- deliveries, clock, free counter, signals, interlocks and MGT's state -/
  plain : ∀ (s : State) (ob : List Instr) (now free : Nat) (mgt : MgtRec) (sig : SigRec) (ilk : IlkRec), P s →
    P { s with outbox := ob, now := now, free := free, mgt := mgt, sig := sig, ilk := ilk }
  /-- the reset cause set and the settings store -/
  sys : ∀ (s : State) (causes : ResetCauses) (store : StoredImage), s.sys.phase = .run → P s →
    P (s.setSys { s.sys with causes := causes, store := store })
  queueForwarded : ∀ (s : State) (p : Port) (q : ForwardRequest), s.sys.phase = .run → P s → P (queueForwarded s p q)
  queuePart : ∀ (s : State) (p : Port) (f : Frame), s.sys.phase = .run → P s → P (queuePart s p f)
  attemptEnd : ∀ (s : State) (p : Port) (b : Bool), s.sys.phase = .run → P s → P (attemptEnd s p b)
  ageExpiry : ∀ (s : State) (p : Port) (i : Nat), s.sys.phase = .run → P s → P (ageExpiry s p i)
  recover : ∀ (s : State) (p : Port), s.sys.phase = .run → P s → P (recover s p)
  reissue : ∀ (s : State) (v : Vector (Option ReissueRec) 16), s.sys.phase = .run → P s →
    P (s.setFre { s.fre with reissue := v })
  /-- frames leave the Hold Buffer -/
  unhold : ∀ (s : State) (h : List HeldFrame), s.sys.phase = .run → h.Sublist s.fre.hold → P s → P (s.setHold h)
  /-- a held frame is superseded -/
  supersede : ∀ (s : State) (f : Frame) (p : Port) (e : Fin 96), s.sys.phase = .run → P s →
    P (s.setHold (s.fre.hold.map fun x => if x.same f.ident e then x.superseded f p else x))
  /-- a frame is placed in a free holder -/
  place : ∀ (s : State) (h : HeldFrame), s.sys.phase = .run → s.fre.hold.length < 8 →
    (∀ x ∈ s.fre.hold, x.frame.ident ≠ h.frame.ident) → P s → P (s.setHold (s.fre.hold ++ [h]))
  excTake : ∀ (s : State) (r : Raise), s.sys.phase = .run → P s → P (excTake s r)
  readHighest : ∀ s : State, s.sys.phase = .run → P s → P (readHighest s)
  clearFlags : ∀ s : State, s.sys.phase = .run → P s → P (clearFlags s)
  emptyCapture : ∀ s : State, s.sys.phase = .run → P s → P (emptyCapture s)
  /-- a channel takes a context; away from DISENGAGED only where it was so already, or its partner is at rest -/
  enter : ∀ (s : State) (c : Channel) (r : ChannelRec), s.sys.phase = .run →
    (r.state = .disengaged ∨ (s.chan c).state ≠ .disengaged ∨ partnerActive s c = false) → P s → P (enter s c r)
  /-- a refusal writes the last outcome -/
  outcome : ∀ (s : State) (c : Channel) (o : Option DriveOutcome), s.sys.phase = .run → P s →
    P (s.setChan c { s.chan c with outcome := o })
  tnkTake : ∀ (s : State) (n : TnkRec) (b : Bool), s.sys.phase = .run → P s → P (tnkTake s n b)
  runDry : ∀ s : State, s.sys.phase = .run → P s → P (s.setTnk { s.tnk with runDry := none })
  csuFinish : ∀ (s : State) (c : CsuRec), s.sys.phase = .run → P s → P (csuFinish s c)
  /-- a commit replaces the active set, and EXC takes the mask change -/
  activate : ∀ s : State, s.sys.phase = .run → s.mgt.shadow.failing = [] → P s →
    P (maskChange (activate s) s.active.mask)
  /-- resets -/
  powerUp : ∀ s : State, P s → P (powerUp s)
  powerDown : ∀ s : State, P s → P (powerDown s)
  lineReset : ∀ s : State, P s → P (lineReset s)
  lineRelease : ∀ s : State, P s → P (lineRelease s)
  managementReset : ∀ s : State, s.sys.phase = .run → P s → P (managementReset s)
  /-- start-up -/
  endStart : ∀ (s : State) (b : Bool), s.sys.phase = .start → (b = true → s.sys.store.good = true) → P s → P (endStart s b)

/-- A property that holds in RUN and is kept in RUN is kept by a fold. -/
theorem fold_run {P : State → Prop} {β : Type} (f : State → β → State)
    (hf : ∀ s x, s.sys.phase = .run → P s → (f s x).sys.phase = .run ∧ P (f s x)) :
    ∀ (xs : List β) (s : State), s.sys.phase = .run → P s → (xs.foldl f s).sys.phase = .run ∧ P (xs.foldl f s)
  | [], _, hr, hs => ⟨hr, hs⟩
  | x :: xs, s, hr, hs => by
    rw [List.foldl_cons]
    exact fold_run f hf xs _ (hf s x hr hs).1 (hf s x hr hs).2

namespace Closed

variable {P : State → Prop} (h : Closed P) {s : State}
include h

/-! The plain updates. -/

theorem post (ds : List Instr) (hs : P s) : P (s.post ds) :=
  h.plain s (s.outbox ++ ds) s.now s.free s.mgt s.sig s.ilk hs
theorem raise (r : Raise) (hs : P s) : P (s.raise r) := h.post _ hs
theorem taken (d : Instr) (hs : P s) : P (s.taken d) :=
  h.plain s (s.outbox.erase d) s.now s.free s.mgt s.sig s.ilk hs
theorem clock (t : Nat) (hs : P s) : P (s.clock t) := h.plain s s.outbox (max s.now t) s.free s.mgt s.sig s.ilk hs
theorem drawn (hs : P s) : P s.drawn := h.plain s s.outbox s.now (s.free + 1) s.mgt s.sig s.ilk hs
theorem tick (hs : P s) : P s.tick := h.plain s s.outbox (s.now + 1) s.free s.mgt s.sig s.ilk hs
theorem setOutbox (ds : List Instr) (hs : P s) : P (s.setOutbox ds) :=
  h.plain s ds s.now s.free s.mgt s.sig s.ilk hs
theorem setMgt (m : MgtRec) (hs : P s) : P (s.setMgt m) := h.plain s s.outbox s.now s.free m s.sig s.ilk hs
theorem setSig (r : SigRec) (hs : P s) : P (s.setSig r) := h.plain s s.outbox s.now s.free s.mgt r s.ilk hs
theorem setIlk (r : IlkRec) (hs : P s) : P (s.setIlk r) := h.plain s s.outbox s.now s.free s.mgt s.sig r hs
theorem writeSlot (i : Fin 32) (v : Raw) (w : Writer) (hs : P s) : P (writeSlot s i v w) := by
  obtain ⟨_, _, e⟩ := writeSlot_frame s i v w
  rw [e]; exact h.plain s _ _ _ _ _ _ hs
theorem staleSlot (i : Fin 32) (hs : P s) : P (staleSlot s i) := by
  obtain ⟨_, _, e⟩ := staleSlot_frame s i
  rw [e]; exact h.plain s _ _ _ _ _ _ hs

/-! ILK. -/

theorem recompute (hs : P s) : P (recompute s) := by
  obtain ⟨_, _, e⟩ := recompute_frame s
  rw [e]; exact h.plain s _ _ _ _ _ _ hs
theorem takeConds (m : Mode) (f : Cond → Tri → Tri) (hs : P s) : P (takeConds s m f) := by
  obtain ⟨_, _, e⟩ := takeConds_frame s m f
  rw [e]; exact h.plain s _ _ _ _ _ _ hs
theorem ilkTakeSlot (e : SlotEvent) (hs : P s) : P (ilkTakeSlot s e) := by
  obtain ⟨_, _, e⟩ := ilkTakeSlot_frame s e
  rw [e]; exact h.plain s _ _ _ _ _ _ hs
theorem ilkTakeDrive (c : Channel) (hs : P s) : P (ilkTakeDrive s c) := by
  obtain ⟨_, _, e⟩ := ilkTakeDrive_frame s c
  rw [e]; exact h.plain s _ _ _ _ _ _ hs
theorem ilkCommit (hs : P s) : P (ilkCommit s) := by
  obtain ⟨_, _, e⟩ := ilkCommit_frame s
  rw [e]; exact h.plain s _ _ _ _ _ _ hs

/-! FRE. -/

theorem setReissue (k : Fin 16) (r : Option ReissueRec) (hr : s.sys.phase = .run) (hs : P s) : P (s.setReissue k r) :=
  h.reissue s _ hr hs

theorem forwardVia (k : Option (Fin 16)) (f : Frame) (p : Port) (e : Fin 96) (hr : s.sys.phase = .run) (hs : P s) :
    P (forwardVia s k f p e) := by
  simp only [Machine.forwardVia]
  split
  · exact h.queueForwarded _ _ _ hr hs
  · split
    · exact h.raise _ hs
    · rename_i g _
      obtain ⟨_, _, _, e1⟩ := queueForwarded_frame s p.other (forwardRequest s g p e)
      have hq := h.queueForwarded s p.other (forwardRequest s g p e) hr hs
      split
      · exact h.setReissue _ _ (by rw [e1]; exact hr) hq
      · exact hq

theorem closedTreatment (f : Frame) (p : Port) (e : Fin 96) (t : Fin 24) (r : Tri) (hr : s.sys.phase = .run) (hs : P s) :
    P (closedTreatment s f p e t r) := by
  have hsub : P (substitute s f p e) := by
    simp only [substitute]
    split
    · exact hs
    · exact h.forwardVia _ _ _ _ hr hs
  simp only [Machine.closedTreatment]
  split
  · exact h.raise _ hsub
  · exact hsub

theorem takeRise (t : Fin 24) (hr : s.sys.phase = .run) (hs : P s) : P (takeRise s t) := by
  simp only [Machine.takeRise]
  split
  · have h0 := h.unhold s (s.fre.hold.filter fun x => x.term != t) hr List.filter_sublist hs
    refine (fold_run (P := P) releaseOne (fun s x hr hs => ⟨?_, ?_⟩) _ _ ?_ h0).2
    · obtain ⟨_, _, _, _, e⟩ := forwardVia_frame s (frtOpen (s.entry x.entry)) x.frame x.arrival x.entry
      rw [releaseOne, e]; exact hr
    · exact h.forwardVia _ _ _ _ hr hs
    · exact hr
  · exact hs

theorem offerHold (f : Frame) (p : Port) (e : Fin 96) (t : Fin 24) (hr : s.sys.phase = .run) (hs : P s) :
    P (offerHold s f p e t) := by
  simp only [Machine.offerHold]
  split
  · exact h.supersede s f p e hr hs
  · split
    · exact h.raise _ (h.closedTreatment _ _ _ _ _ hr hs)
    · rename_i hn
      simp only [Bool.or_eq_true, List.any_eq_true, beq_iff_eq, not_or, not_exists, not_and, Config.holders,
        Bool.not_eq_true] at hn
      exact h.place s _ hr (Nat.lt_of_not_le (of_decide_eq_false hn.2)) hn.1 hs

theorem holdDeadline (id : Ident) (hr : s.sys.phase = .run) (hs : P s) : P (holdDeadline s id) := by
  simp only [Machine.holdDeadline]
  split
  · exact hs
  · exact h.raise _ (h.closedTreatment _ _ _ _ _ hr (h.unhold _ _ hr List.erase_sublist (h.clock _ hs)))

theorem takeFall (hr : s.sys.phase = .run) (hs : P s) : P (takeFall s) := by
  rw [Machine.takeFall]
  refine (fold_run reissueOne (fun s k hr hs => ?_) _ _ hr hs).2
  simp only [reissueOne]
  split
  · exact ⟨hr, hs⟩
  · rename_i r _
    split
    · obtain ⟨_, _, _, e⟩ := queueForwarded_frame s r.target
        { frame := reissued s r, arrival := r.arrival, entry := some r.entry, mark := true }
      have hq := h.queueForwarded s r.target
        { frame := reissued s r, arrival := r.arrival, entry := some r.entry, mark := true } hr hs
      have hr1 : (Machine.queueForwarded s r.target
        { frame := reissued s r, arrival := r.arrival, entry := some r.entry, mark := true }).sys.phase = .run := by
        rw [e]; exact hr
      exact ⟨hr1, h.setReissue _ _ hr1 hq⟩
    · exact ⟨hr, hs⟩

theorem unmatched (p : Port) (f : Frame) (hr : s.sys.phase = .run) (hs : P s) : P (unmatched s p f) := by
  simp only [Machine.unmatched]
  split
  · exact h.queueForwarded _ _ _ hr hs
  · exact hs

theorem frameAction (f : Frame) (p : Port) (e : Fin 96) (hr : s.sys.phase = .run) (hs : P s) : P (frameAction s f p e) := by
  simp only [Machine.frameAction]
  split
  · exact h.forwardVia _ _ _ _ hr hs
  · exact hs
  · simp only [gateFrame]
    split
    · exact h.forwardVia _ _ _ _ hr hs
    · exact h.closedTreatment _ _ _ _ _ hr hs
  · simp only [holdFrame]
    split
    · exact h.forwardVia _ _ _ _ hr (h.unhold s _ hr List.filter_sublist hs)
    · exact h.offerHold _ _ _ _ hr hs
  · exact hs

/-! DRV. -/

theorem enterFaulted (c : Channel) (w : FailCause) (k : ExcClass) (hr : s.sys.phase = .run)
    (hc : (s.chan c).state ≠ .disengaged) (hs : P s) : P (enterFaulted s c w k) :=
  h.raise _ (h.enter s c _ hr (.inr (.inl hc)) hs)

theorem enterReleasing (c : Channel) (w : AbortCause) (hr : s.sys.phase = .run) (hc : (s.chan c).state ≠ .disengaged)
    (hs : P s) : P (enterReleasing s c w) := h.enter s c _ hr (.inr (.inl hc)) hs

theorem refuse (c : Channel) (w : RefuseReason) (hr : s.sys.phase = .run) (hs : P s) : P (refuse s c w) := by
  simp only [Machine.refuse]
  split
  · exact h.raise _ hs
  · exact h.raise _ (h.outcome s c _ hr hs)

theorem engage (c : Channel) (o : Origin) (hr : s.sys.phase = .run) (hs : P s) : P (engage s c o).1 := by
  simp only [Machine.engage]
  split
  · split
    · exact h.refuse _ _ hr hs
    · rename_i hn
      refine h.enter s c _ hr (.inr (.inr ?_)) hs
      simp only [engageRefusal] at hn
      split at hn
      · cases hn
      · split at hn
        · cases hn
        · rename_i hp; simpa using hp
  · exact hs
  · exact hs
  · exact hs
  · exact h.refuse _ _ hr hs
  · exact h.refuse _ _ hr hs

theorem disengage (c : Channel) (hr : s.sys.phase = .run) (hs : P s) : P (disengage s c).1 := by
  simp only [Machine.disengage]
  split
  all_goals first
    | exact hs
    | (rename_i e; exact h.enterReleasing _ _ hr (by rw [e]; decide) hs)

theorem clearDrive (c : Channel) (hr : s.sys.phase = .run) (hs : P s) : P (clearDrive s c).1 := by
  simp only [Machine.clearDrive]
  split
  · split
    · exact h.enter s c _ hr (.inl rfl) hs
    · exact hs
  all_goals exact hs

end Closed

/-! The phase is the same after every operation of a block. -/

/-- DRV's operations leave the phase as it is. -/
theorem enter_phase (s : State) (c : Channel) (r : ChannelRec) : (enter s c r).sys = s.sys := by
  obtain ⟨_, _, _, h⟩ := enter_frame' s c r
  rw [h]

/-- A request leaves the phase as it is. -/
theorem engage_sys (s : State) (c : Channel) (o : Origin) : (engage s c o).1.sys = s.sys := by
  obtain ⟨_, _, _, h⟩ := engage_frame s c o
  rw [h]

/-- A disengage request leaves the phase as it is. -/
theorem disengage_sys (s : State) (c : Channel) : (disengage s c).1.sys = s.sys := by
  obtain ⟨_, _, _, h⟩ := disengage_frame s c
  rw [h]

/-- A slot event at one channel leaves the phase as it is. -/
theorem channelSlot_sys (e : SlotEvent) (s : State) (c : Channel) : (channelSlot e s c).sys = s.sys := by
  obtain ⟨_, _, _, h⟩ := channelSlot_frame e s c
  rw [h]

/-- A request at one channel leaves the phase as it is. -/
theorem channelRequest_sys (e : SlotEvent) (s : State) (c : Channel) : (channelRequest e s c).sys = s.sys := by
  simp only [channelRequest]
  split
  · split
    · exact engage_sys ..
    · exact disengage_sys ..
    · rfl
  · rfl

/-- A permit fall at one channel leaves the phase as it is. -/
theorem channelFall_sys (t : Fin 24) (s : State) (c : Channel) : (channelFall t s c).sys = s.sys := by
  obtain ⟨_, _, _, h⟩ := channelFall_frame t s c
  rw [h]

/-- A lapse at one channel leaves the phase as it is. -/
theorem channelLapse_sys (s : State) (c : Channel) : (channelLapse s c).sys = s.sys := by
  obtain ⟨_, _, _, h⟩ := channelLapse_frame s c
  rw [h]

/-- A taking leaves the phase as it is. -/
theorem takeEvent_sys (d : Instr) (s : State) : (takeEvent d s).sys = s.sys := by
  obtain ⟨_, _, _, _, _, _, _, _, _, _, h⟩ := takeEvent_frame d s
  rw [h]

/-- A response leaves the phase as it is. -/
theorem respond_sys (s : State) (p : Port) (code tag : Byte) (res : Result) (data : List Byte) :
    (respond s p code tag res data).sys = s.sys := by
  obtain ⟨_, _, h⟩ := respond_frame s p code tag res data
  rw [h]

/-- A CLEAR leaves the phase as it is. -/
theorem clearDrive_sys (s : State) (c : Channel) : (clearDrive s c).1.sys = s.sys := by
  simp only [clearDrive]
  split
  · split
    · exact enter_phase ..
    · rfl
  all_goals rfl

namespace Closed

variable {P : State → Prop} (h : Closed P) {s : State}
include h

/-! Frames that leave by a port, and what SIG writes. -/

theorem respond (p : Port) (code tag : Byte) (res : Result) (data : List Byte) (hr : s.sys.phase = .run) (hs : P s) :
    P (respond s p code tag res data) := h.queuePart _ _ _ hr hs

theorem reply (code : ReqCode) (r : Request) (res : Result) (data : List Byte) (hr : s.sys.phase = .run) (hs : P s) :
    P (reply s code r res data) := h.queuePart _ _ _ hr hs

theorem judgedBy (code : ReqCode) (r : Request) (l : List (Option Result)) (k : State) (hr : s.sys.phase = .run)
    (hs : P s) (hk : P k) : P (judgedBy s code r l k) := by
  simp only [Machine.judgedBy]
  split
  · exact h.reply _ _ _ _ hr hs
  · exact hk

theorem staleExpiry (i : Fin 32) (hs : P s) : P (staleExpiry s i) := by
  obtain ⟨_, _, _, e⟩ := (sig_frames s).1 i
  rw [e]; exact h.plain s _ _ s.free s.mgt _ s.ilk hs
theorem debounceEnd (i : Fin 6) (hs : P s) : P (debounceEnd s i) := by
  obtain ⟨_, _, _, e⟩ := (sig_frames s).2.1 i
  rw [e]; exact h.plain s _ _ s.free s.mgt _ s.ilk hs
theorem windowEnds (i : Fin 4) (hs : P s) : P (windowEnds s i) := by
  obtain ⟨_, _, _, e⟩ := (sig_frames s).2.2.1 i
  rw [e]; exact h.plain s _ _ s.free s.mgt _ s.ilk hs
theorem risingEdge (i : Fin 4) (hs : P s) : P (risingEdge s i) := by
  obtain ⟨_, _, e⟩ := (sig_frames s).2.2.2.1 i
  rw [e]; exact h.plain s _ s.now s.free s.mgt _ s.ilk hs
theorem levelChange (i : Fin 6) (b : Bool) (hs : P s) : P (levelChange s i b) := by
  obtain ⟨_, e⟩ := (sig_frames s).2.2.2.2 i b
  rw [e]; exact h.plain s s.outbox s.now s.free s.mgt _ s.ilk hs

theorem sigCommit (before : Tables) (hs : P s) : P (sigCommit before s) := by
  obtain ⟨_, _, e⟩ := sigCommit_frame before s
  rw [e]; exact h.plain s _ s.now s.free s.mgt _ s.ilk hs

/-! Folds of DRV. -/

theorem channelSlot (e : SlotEvent) (c : Channel) (hr : s.sys.phase = .run) (hs : P s) :
    (channelSlot e s c).sys.phase = .run ∧ P (channelSlot e s c) := by
  have h1 : (channelRequest e s c).sys.phase = .run ∧ P (channelRequest e s c) := by
    refine ⟨by rw [channelRequest_sys]; exact hr, ?_⟩
    simp only [channelRequest]
    split
    · split
      · exact h.engage _ _ hr hs
      · exact h.disengage _ hr hs
      · exact hs
    · exact hs
  refine ⟨by rw [channelSlot_sys]; exact hr, ?_⟩
  simp only [Machine.channelSlot, channelCheck]
  split
  · rename_i hc
    split
    · exact h.enter _ _ _ h1.1 (.inr (.inl (by rw [hc]; decide))) h1.2
    · exact h1.2
  · rename_i hc
    split
    · exact h.enterFaulted _ _ _ h1.1 (by rw [hc]; decide) h1.2
    · exact h1.2
  · exact h1.2

theorem channelFall (t : Fin 24) (c : Channel) (hr : s.sys.phase = .run) (hs : P s) :
    (channelFall t s c).sys.phase = .run ∧ P (channelFall t s c) := by
  refine ⟨by rw [channelFall_sys]; exact hr, ?_⟩
  simp only [Machine.channelFall]
  split
  · split
    all_goals rename_i hc
    · exact h.raise _ (h.enterReleasing _ _ hr (by rw [hc]; decide) hs)
    · exact h.raise _ (h.enterReleasing _ _ hr (by rw [hc]; decide) hs)
    · split
      · exact h.raise _ (h.enterReleasing _ _ hr (by rw [hc]; decide) hs)
      · exact h.raise _ hs
    all_goals exact hs
  · exact hs

theorem channelLapse (c : Channel) (hr : s.sys.phase = .run) (hs : P s) :
    (channelLapse s c).sys.phase = .run ∧ P (channelLapse s c) := by
  refine ⟨by rw [channelLapse_sys]; exact hr, ?_⟩
  simp only [Machine.channelLapse]
  split
  all_goals first
    | exact hs
    | (rename_i hc; exact h.enterReleasing _ _ hr (by rw [hc]; decide) hs)

theorem runDry' (c : Channel) (hr : s.sys.phase = .run) (hs : P s) : P (Machine.runDry s c) := by
  simp only [Machine.runDry]
  split
  · rename_i hc
    exact h.enterReleasing _ _ hr (by rw [hc]; decide) hs
  · exact hs

theorem driveTimers (c : Channel) (hr : s.sys.phase = .run) (hs : P s) :
    P (settleEnd s c) ∧ P (verifyEnd s c) ∧ P (releaseEnd s c) := by
  refine ⟨?_, ?_, ?_⟩
  · simp only [settleEnd]
    split
    · rename_i t hc _
      have hd : ((s.clock t).chan c).state ≠ .disengaged := by
        have : (s.clock t).chan c = s.chan c := by cases c <;> rfl
        rw [this, hc]; decide
      split
      · exact h.enter _ _ _ hr (.inr (.inl hd)) (h.clock _ hs)
      · exact h.enter _ _ _ hr (.inr (.inl hd)) (h.clock _ hs)
    · exact hs
  · simp only [verifyEnd]
    split
    · rename_i t hc _
      refine h.enterFaulted _ _ _ hr ?_ (h.clock _ hs)
      have : (s.clock t).chan c = s.chan c := by cases c <;> rfl
      rw [this, hc]; decide
    · exact hs
  · simp only [releaseEnd]
    split
    · rename_i t hc _
      have hd : ((s.clock t).chan c).state ≠ .disengaged := by
        have : (s.clock t).chan c = s.chan c := by cases c <;> rfl
        rw [this, hc]; decide
      split
      · exact h.enter _ _ _ hr (.inl rfl) (h.clock _ hs)
      · exact h.enterFaulted _ _ _ hr hd (h.clock _ hs)
    · exact hs

/-! CSU. -/

theorem supervisionEnd (hr : s.sys.phase = .run) (hs : P s) : P (supervisionEnd s) := by
  simp only [Machine.supervisionEnd]
  split
  · exact h.csuFinish _ _ hr (h.post _ (h.clock _ hs))
  · exact hs

theorem rampEnd (hr : s.sys.phase = .run) (hs : P s) : P (rampEnd s) := by
  simp only [Machine.rampEnd]
  split
  · exact hs
  · exact h.csuFinish _ _ hr (h.clock _ hs)

theorem dryExpiry (hr : s.sys.phase = .run) (hs : P s) : P (dryExpiry s) := by
  simp only [Machine.dryExpiry]
  split
  · exact hs
  · exact h.post _ (h.runDry (s.clock _) hr (h.clock _ hs))

/-! Takings, and the frames in which they happen. -/

theorem takeEvent (d : Instr) (hr : s.sys.phase = .run) (hs : P s) : P (takeEvent d s) := by
  have ht : ∀ d, P (s.taken d) := fun d => h.taken d hs
  cases d
  case ilkSlotEvent => exact h.ilkTakeSlot _ (ht _)
  case ilkDriveStateChange => exact h.ilkTakeDrive _ (ht _)
  case ilkBandChange => exact h.takeConds _ _ (ht _)
  case ilkSupplyChange => exact h.takeConds _ _ (ht _)
  case drvSlotEvent ev => exact (fold_run _ (fun s c hr hs => h.channelSlot ev c hr hs) _ (s.taken _) hr (ht _)).2
  case permitTermFall t => exact (fold_run _ (fun s c hr hs => h.channelFall t c hr hs) _ (s.taken _) hr (ht _)).2
  case permitTermRise => exact ht _
  case supervisionLapse => exact (fold_run _ (fun s c hr hs => h.channelLapse c hr hs) _ (s.taken _) hr (ht _)).2
  case runDryRequest => exact h.runDry' _ hr (ht _)
  case tnkSlotEvent => exact h.tnkTake _ _ _ hr (ht _)
  case volumeUnit => exact h.tnkTake _ _ _ hr (ht _)
  case tnkDriveStateChange => exact h.tnkTake _ _ _ hr (ht _)
  case csuInputDelivery => exact h.csuFinish _ _ hr (ht _)
  case heartbeat => exact h.csuFinish _ _ hr (ht _)
  case termRiseAtFre => exact h.takeRise _ hr (ht _)
  case termFallAtFre => exact ht _
  case ceilingFall => exact h.takeFall (s := s.taken .ceilingFall) hr (ht _)
  case exceptionRaise => exact h.excTake _ _ hr (ht _)
  all_goals exact hs

theorem commitTurn (order : List (List Block)) (old : List Instr) (k : Nat) (hr : s.sys.phase = .run) (hs : P s) :
    (commitTurn order old k s).sys.phase = .run ∧ P (commitTurn order old k s) :=
  commitTurn_inv (fun u => u.sys.phase = .run ∧ P u)
    (fun d u hu => ⟨by rw [takeEvent_sys]; exact hu.1, h.takeEvent d hu.1 hu.2⟩) order old k s ⟨hr, hs⟩

theorem takeWithin (n : Nat) (b : Block) (hr : s.sys.phase = .run) (hs : P s) :
    (takeWithin n s b).sys.phase = .run ∧ P (takeWithin n s b) := by
  rcases takeWithin_cases n s b with e | ⟨d, _, e⟩
  · rw [e]; exact ⟨hr, hs⟩
  · rw [e]; exact ⟨by rw [takeEvent_sys]; exact hr, h.takeEvent d hr hs⟩

theorem writeExtraction (n : Nat) (f : Frame) (e : Fin 96) (first : List Block) (x : Extraction) (hr : s.sys.phase = .run)
    (hs : P s) : (writeExtraction n f e first s x).sys.phase = .run ∧ P (writeExtraction n f e first s x) := by
  have hw : (Machine.writeSlot s x.slot (x.value f.data) (.entry e)).sys.phase = .run := hr
  have hp : P (Machine.writeSlot s x.slot (x.value f.data) (.entry e)) := h.writeSlot _ _ _ hs
  obtain ⟨hr1, hs1⟩ := fold_run (Machine.takeWithin n) (fun _ b hr hs => h.takeWithin n b hr hs) first _ hw hp
  simp only [Machine.writeExtraction]
  generalize (s.slot x.slot).event x.slot (x.value f.data) (.entry e) = ev
  generalize first.foldl (Machine.takeWithin n) (Machine.writeSlot s x.slot (x.value f.data) (.entry e)) = u at hr1 hs1 ⊢
  split
  · exact ⟨(congrArg SysRec.phase (takeEvent_sys (.ilkSlotEvent ev) u)).trans hr1, h.takeEvent (.ilkSlotEvent ev) hr1 hs1⟩
  · exact ⟨hr1, hs1⟩

theorem extract (order : List (List Block)) (f : Frame) (e : Fin 96) (xs : List Extraction) (hr : s.sys.phase = .run)
    (hs : P s) : (extract s order f e xs).sys.phase = .run ∧ P (extract s order f e xs) := by
  obtain ⟨hr1, hs1⟩ := fold_run _ (fun _ x hr hs => h.writeExtraction (waitingRises s).length f e (order.getD x.2 []) x.1 hr hs)
    xs.zipIdx s hr hs
  exact fold_run _ (fun s t hr hs => ⟨(congrArg SysRec.phase (takeEvent_sys (.termRiseAtFre t) s)).trans hr,
    h.takeEvent (.termRiseAtFre t) hr hs⟩) _ _ hr1 hs1

theorem freTake (a : Arrival) (f : Frame) (hr : s.sys.phase = .run) (hs : P s) : P (freTake s a f) := by
  simp only [Machine.freTake]
  split
  · exact h.unmatched _ _ hr hs
  · rename_i e _
    simp only [matched]
    split
    · obtain ⟨hr1, hx⟩ := h.extract (s := s.post (rangeRaises s a.port f e (frtExtractions (s.entry e)))) a.order f e
        (writtenExtractions s.active f.data.length (frtExtractions (s.entry e))) hr (h.post _ hs)
      split
      · exact h.frameAction (s := State.post _ _) _ _ _ hr1 (h.post _ hx)
      · exact h.frameAction _ _ _ hr1 hx
    · exact h.post _ hs

/-! Start-up. -/

theorem readComplete (b : Bool) (hs : P s) : P (readComplete s b) := by
  simp only [Machine.readComplete]
  split
  · rename_i hp _
    refine h.endStart _ _ hp (fun hg => ?_) hs
    simp only [imageGood, Bool.and_eq_true] at hg
    exact hg.2
  · exact hs

theorem readTimeout (hs : P s) : P (readTimeout s) := by
  simp only [Machine.readTimeout]
  split
  · rename_i hp _
    exact h.endStart _ _ hp (fun hg => by cases hg) (h.clock _ hs)
  · exact hs

theorem saveEnd (a b : Bool) (hr : s.sys.phase = .run) (hs : P s) : P (saveEnd s a b) := by
  simp only [Machine.saveEnd]
  split
  · exact hs
  · split
    · exact h.respond _ _ _ _ _ hr (h.sys (s.setMgt _) _ _ hr (h.setMgt _ hs))
    · exact h.raise _ (h.respond _ _ _ _ _ hr (h.setMgt _ hs))

/-! Requests. -/

theorem freCommit (hr : s.sys.phase = .run) (hs : P s) : (freCommit s).sys.phase = .run ∧ P (freCommit s) := by
  have h1 : (purge s).sys.phase = .run ∧ P (purge s) := by
    rw [purge]
    refine fold_run _ (fun s x hr hs => ⟨?_, h.excTake _ _ hr hs⟩) _ _ hr (h.unhold _ _ hr (List.nil_sublist _) hs)
    obtain ⟨_, _, _, _, e⟩ := excTake_frame s (gateRaise s .holdDiscard x.frame x.arrival x.entry x.term (some .purged))
    rw [e]; exact hr
  rw [Machine.freCommit]
  exact ⟨h1.1, h.reissue _ _ h1.1 h1.2⟩

theorem handCommit (order : List (List Block)) (hr : s.sys.phase = .run) (hf : s.mgt.shadow.failing = []) (hs : P s) :
    (handCommit order s.active (Machine.activate s)).sys.phase = .run ∧
      P (handCommit order s.active (Machine.activate s)) := by
  have m : (maskChange (Machine.activate s) s.active.mask).sys.phase = .run := by
    obtain ⟨_, _, e⟩ := maskChange_frame (Machine.activate s) s.active.mask
    rw [e]; exact hr
  have hand := fun (k : Nat) {u : State} => h.commitTurn (s := u) order (Machine.activate s).outbox k
  rw [Machine.handCommit]
  obtain ⟨m1, m2⟩ := hand 0 m (h.activate s hr hf hs)
  generalize Machine.commitTurn order (Machine.activate s).outbox 0 (maskChange (Machine.activate s) s.active.mask) = r
    at m1 m2 ⊢
  obtain ⟨m1, m2⟩ := h.freCommit m1 m2
  obtain ⟨m1, m2⟩ := hand 1 m1 m2
  generalize Machine.commitTurn order (Machine.activate s).outbox 1 (Machine.freCommit r) = u at m1 m2 ⊢
  have m3 := h.sigCommit s.active m2
  have m4 : (Machine.sigCommit s.active u).sys.phase = .run := by
    obtain ⟨_, _, e⟩ := sigCommit_frame s.active u
    rw [e]; exact m1
  obtain ⟨m5, m6⟩ := hand 2 m4 m3
  generalize Machine.commitTurn order (Machine.activate s).outbox 2 (Machine.sigCommit s.active u) = v at m5 m6 ⊢
  obtain ⟨m7, m8⟩ := hand 3 (u := tnkCommit s.active v) m5 (h.tnkTake _ _ _ m5 m6)
  generalize Machine.commitTurn order (Machine.activate s).outbox 3 (tnkCommit s.active v) = w at m7 m8 ⊢
  have m9 : (Machine.ilkCommit w).sys.phase = .run := by
    obtain ⟨_, _, e⟩ := ilkCommit_frame w
    rw [e]; exact m7
  obtain ⟨m10, m11⟩ := hand 4 m9 (h.ilkCommit m8)
  generalize Machine.commitTurn order (Machine.activate s).outbox 4 (Machine.ilkCommit w) = x at m10 m11 ⊢
  exact hand 5 (u := csuCommit x) m10 (h.csuFinish _ _ m10 m11)

theorem commit (r : Request) (hr : s.sys.phase = .run) (hs : P s) : P (commit r s) := by
  simp only [Machine.commit]
  split
  · rename_i hf
    obtain ⟨h1, h2⟩ := h.handCommit r.order hr hf hs
    exact h.reply _ _ _ _ h1 h2
  · exact h.reply _ _ _ _ hr (h.setMgt _ hs)

theorem mgtTake (code : ReqCode) (r : Request) (hr : s.sys.phase = .run) (hs : P s) : P (mgtTake code r s) := by
  cases code <;> simp only [Machine.mgtTake]
  · simp only [mgtReadStatus]
    split
    · exact h.reply _ _ _ _ hr hs
    · exact h.reply _ _ _ _ hr (h.drawn hs)
  · simp only [mgtReadSignal]
    split <;> exact h.reply _ _ _ _ hr hs
  · simp only [mgtReadActive]
    split <;> exact h.reply _ _ _ _ hr hs
  · simp only [mgtReadShadow]
    split <;> exact h.reply _ _ _ _ hr hs
  · exact h.judgedBy _ _ _ _ hr hs (h.reply (s := writeShadow _ _ _) _ _ _ _ hr (h.setMgt _ hs))
  · exact h.judgedBy _ _ _ _ hr hs (h.reply (s := revertShadow _) _ _ _ _ hr (h.setMgt _ hs))
  · exact h.judgedBy _ _ _ _ hr hs (h.commit _ hr hs)
  · exact h.judgedBy _ _ _ _ hr hs (h.sys (s.setMgt _) _ _ hr (h.setMgt _ hs))
  · exact h.reply (s := Machine.readHighest s) _ _ _ _ hr (h.readHighest _ hr hs)
  · simp only [mgtReadCapture]
    split
    · exact h.reply _ _ _ _ hr hs
    · exact h.reply _ _ _ _ hr (h.drawn hs)
  · exact h.judgedBy _ _ _ _ hr hs (h.reply (s := Machine.clearFlags s) _ _ _ _ hr (h.clearFlags _ hr hs))
  · exact h.judgedBy _ _ _ _ hr hs (h.reply (s := Machine.emptyCapture s) _ _ _ _ hr (h.emptyCapture _ hr hs))
  · refine h.judgedBy _ _ _ _ hr hs ?_
    split
    · rename_i c a _ _
      cases a
      · exact h.reply _ _ _ _ (by rw [driveAction, engage_sys]; exact hr) (h.engage _ _ hr hs)
      · exact h.reply _ _ _ _ (by rw [driveAction, disengage_sys]; exact hr) (h.disengage _ hr hs)
      · exact h.reply _ _ _ _ (by rw [driveAction, clearDrive_sys]; exact hr) (h.clearDrive _ hr hs)
    · exact hs
  · refine h.judgedBy _ _ _ _ hr hs ?_
    split
    · simp only [commandValve]
      split <;> exact h.reply (s := valveTake s _) _ _ _ _ hr (h.tnkTake _ _ _ hr hs)
    · exact hs
  · exact h.reply (s := s.setSys _) _ _ _ _ hr (h.sys s _ _ hr hs)
  · exact h.judgedBy _ _ _ _ hr hs (h.managementReset _ hr hs)

/-! Commands. -/

omit h in
theorem inRun (k : State → State) (hk : s.sys.phase = .run → P (k s)) (hs : P s) : P (s.inRun k) := by
  simp only [State.inRun]
  split
  · rename_i hr; exact hk hr
  · exact hs

omit h in
theorem received (p : Port) (b : Nat) (k : State → State) (hk : s.sys.phase = .run → P (k s)) (hs : P s) :
    P (s.received p b k) := by
  simp only [State.received]
  split
  · rename_i hr
    simp only [State.receives, Bool.and_eq_true, beq_iff_eq] at hr
    exact hk hr.1.1
  · exact hs

theorem requestFrame (code : ReqCode) (r : Request) (hs : P s) : P (requestFrame code (Machine.mgtTake code) r s) :=
  received _ _ _ (fun hr => by
    split
    · exact h.mgtTake _ _ hr hs
    · exact h.freTake _ _ hr hs) hs

theorem handOn (a : Arrival) (id : Ident) (data : List Byte) (hr : s.sys.phase = .run) (hs : P s) :
    P (handOn s a id data) := by
  simp only [Machine.handOn]
  split
  · simp only [mgtFrame]
    split
    · exact h.respond _ _ _ _ _ hr hs
    · split
      · exact h.respond _ _ _ _ _ hr hs
      · exact h.mgtTake _ _ hr hs
  · exact h.freTake _ _ hr hs

/-- Every command keeps P. -/
theorem exec_keeps (c : Instr) {t : State} (hs : P s) (e : exec c s = .next t) : P t := by
  have ht : ∀ d : Instr, s.sys.phase = .run → P (Machine.takeEvent d s) := fun d hr => h.takeEvent d hr hs
  cases c <;> simp only [exec] at e <;> cases e
  case remoteFrame => exact hs
  case startFrameDiscard => exact hs
  case standardFrame a i d => exact received _ _ _ (fun hr => h.unmatched _ _ hr hs) hs
  case frameHandledByFre a i d => exact received _ _ _ (fun hr => h.handOn _ _ _ hr hs) hs
  case badRequestFrame a d => exact received _ _ _ (fun hr => h.handOn _ _ _ hr hs) hs
  case readStatus r => exact h.requestFrame .readStatus r hs
  case readSignal r => exact h.requestFrame .readSignal r hs
  case readActive r => exact h.requestFrame .readActive r hs
  case readShadow r => exact h.requestFrame .readShadow r hs
  case writeShadow r => exact h.requestFrame .writeShadow r hs
  case revertShadow r => exact h.requestFrame .revertShadow r hs
  case commit r => exact h.requestFrame .commit r hs
  case save r => exact h.requestFrame .save r hs
  case readEvent r => exact h.requestFrame .readEvent r hs
  case readCapture r => exact h.requestFrame .readCapture r hs
  case clearExceptions r => exact h.requestFrame .clearExceptions r hs
  case clearCapture r => exact h.requestFrame .clearCapture r hs
  case driveCommand r => exact h.requestFrame .driveCommand r hs
  case valveCommand r => exact h.requestFrame .valveCommand r hs
  case readResetCause r => exact h.requestFrame .readResetCause r hs
  case resetPart r => exact h.requestFrame .resetPart r hs
  case queueForwardedFrame p q => exact inRun _ (fun hr => h.queueForwarded _ _ _ hr hs) hs
  case queuePartOriginatedFrame p f => exact inRun _ (fun hr => h.queuePart _ _ _ hr hs) hs
  case transmitAttemptEnd p b => exact inRun _ (fun hr => h.attemptEnd _ _ _ hr hs) hs
  case ageDeadlineExpiry p i => exact inRun _ (fun hr => h.ageExpiry _ _ _ hr hs) hs
  case recoveryTimerExpiry p => exact inRun _ (fun hr => h.recover _ _ hr hs) hs
  case termRiseAtFre t => exact inRun _ (ht (.termRiseAtFre t)) hs
  case termFallAtFre t => exact inRun _ (ht (.termFallAtFre t)) hs
  case holdDeadlineExpiry i => exact inRun _ (fun hr => h.holdDeadline _ hr hs) hs
  case ceilingFall => exact inRun _ (ht .ceilingFall) hs
  case staleTimerExpiry i => exact inRun _ (fun hr => h.staleExpiry _ hs) hs
  case switchLevelChange i b => exact h.levelChange _ _ hs
  case debounceExpiry i => exact inRun _ (fun hr => h.debounceEnd _ hs) hs
  case pulseEdge i => exact inRun _ (fun hr => h.risingEdge _ hs) hs
  case windowExpiry i => exact inRun _ (fun hr => h.windowEnds _ hs) hs
  case volumeUnit k => exact inRun _ (ht (.volumeUnit k)) hs
  case ilkSlotEvent ev => exact inRun _ (ht (.ilkSlotEvent ev)) hs
  case ilkDriveStateChange c => exact inRun _ (ht (.ilkDriveStateChange c)) hs
  case ilkBandChange k => exact inRun _ (ht (.ilkBandChange k)) hs
  case ilkSupplyChange => exact inRun _ (ht .ilkSupplyChange) hs
  case drvSlotEvent ev => exact inRun _ (ht (.drvSlotEvent ev)) hs
  case permitTermFall t => exact inRun _ (ht (.permitTermFall t)) hs
  case permitTermRise t => exact inRun _ (ht (.permitTermRise t)) hs
  case supervisionLapse => exact inRun _ (ht .supervisionLapse) hs
  case runDryRequest c => exact inRun _ (ht (.runDryRequest c)) hs
  case settleExpiry c => exact inRun _ (fun hr => (h.driveTimers _ hr hs).1) hs
  case verifyExpiry c => exact inRun _ (fun hr => (h.driveTimers _ hr hs).2.1) hs
  case releaseExpiry c => exact inRun _ (fun hr => (h.driveTimers _ hr hs).2.2) hs
  case tnkSlotEvent ev => exact inRun _ (ht (.tnkSlotEvent ev)) hs
  case tnkDriveStateChange c st => exact inRun _ (ht (.tnkDriveStateChange c st)) hs
  case runDryExpiry => exact inRun _ (fun hr => h.dryExpiry hr hs) hs
  case csuInputDelivery d => exact inRun _ (ht (.csuInputDelivery d)) hs
  case heartbeat => exact inRun _ (ht .heartbeat) hs
  case supervisionTimerExpiry => exact inRun _ (fun hr => h.supervisionEnd hr hs) hs
  case rampExpiry => exact inRun _ (fun hr => h.rampEnd hr hs) hs
  case exceptionRaise r => exact inRun _ (ht (.exceptionRaise r)) hs
  case powerOn => exact h.powerUp _ hs
  case powerFail => exact h.powerDown _ hs
  case resetLine => exact h.lineReset _ hs
  case resetLineRelease => exact h.lineRelease _ hs
  case storeReadCompletion b => exact h.readComplete _ hs
  case storeReadTimeout => exact h.readTimeout hs
  case saveCompletion a b => exact inRun _ (fun hr => h.saveEnd _ _ hr hs) hs

/-- Every step keeps P, where P does not speak of the queue. -/
theorem step_keeps (hq : ∀ (s : State) (q : List Instr), P s → P { s with pending := q }) {t : State} (hs : P s)
    (e : step s = .next t) : P t := by
  rw [step] at e
  split at e
  · rename_i c rest _
    exact h.exec_keeps c (hq s rest hs) e
  · split at e
    · exact h.exec_keeps _ hs e
    · cases e; exact h.tick hs

end Closed

end Sys2Proof.Machine
end

