-- ==== Sys2Proof/Laws/Tables.lean ====
section
/-! SUPPORT. The checks of a commit do not see the tag change that the commit itself makes, so the tables it makes active
are sound (R187, R189, R190); the fallback configuration is sound (R198). -/

namespace Sys2Proof.Machine

/-- A new tag leaves every bit above the tag byte. -/
theorem withTag_getLsbD (img : Image20) (c : Byte) (i : Nat) (h : 8 ≤ i) :
    (withTag img c).getLsbD i = img.getLsbD i := by
  unfold withTag
  by_cases hi : i < 160
  · have h1 : (255#160).getLsbD i = false := by
      have : (255#160 : BitVec 160) = (BitVec.allOnes 8).setWidth 160 := by decide
      rw [this, BitVec.getLsbD_setWidth, BitVec.getLsbD_of_ge _ _ h, Bool.and_false]
    simp only [BitVec.getLsbD_or, BitVec.getLsbD_and, BitVec.getLsbD_not, h1, BitVec.getLsbD_setWidth]
    have : c.getLsbD i = false := BitVec.getLsbD_of_ge c i h
    simp [this, hi]
  · rw [BitVec.getLsbD_of_ge _ _ (by omega), BitVec.getLsbD_of_ge _ _ (by omega)]

/-- A new tag leaves what lies above the tag byte. -/
theorem withTag_ushiftRight (img : Image20) (c : Byte) : (withTag img c) >>> 8 = img >>> 8 := by
  apply BitVec.eq_of_getLsbD_eq
  intro i hi
  rw [BitVec.getLsbD_ushiftRight, BitVec.getLsbD_ushiftRight, withTag_getLsbD _ _ _ (by omega)]

/-- A new tag leaves every field above the tag byte. -/
theorem withTag_field (img : Image20) (c : Byte) (lo len : Nat) (h : 8 ≤ lo) :
    field (withTag img c) lo len = field img lo len := by
  have := congrArg BitVec.toNat (withTag_ushiftRight img c)
  rw [BitVec.toNat_ushiftRight, BitVec.toNat_ushiftRight, Nat.shiftRight_eq_div_pow, Nat.shiftRight_eq_div_pow] at this
  unfold field
  obtain ⟨k, rfl⟩ := Nat.exists_eq_add_of_le h
  rw [Nat.pow_add, ← Nat.div_div_eq_div_mul, ← Nat.div_div_eq_div_mul, this]

/-- Byte 0 is the new tag. -/
theorem byteOf_zero_withTag (img : Image20) (c : Byte) : byteOf (withTag img c) 0 = c.toNat := by
  unfold byteOf field
  simp only [Nat.mul_zero, Nat.pow_zero, Nat.div_one]
  have : (withTag img c).setWidth 8 = c := by
    apply BitVec.eq_of_getLsbD_eq
    intro i hi
    have h1 : (255#160).getLsbD i = true := by
      have : (255#160 : BitVec 160) = (BitVec.allOnes 8).setWidth 160 := by decide
      rw [this, BitVec.getLsbD_setWidth, BitVec.getLsbD_allOnes]; simp [hi]; omega
    rw [BitVec.getLsbD_setWidth]
    simp only [withTag, BitVec.getLsbD_or, BitVec.getLsbD_and, BitVec.getLsbD_not, h1, BitVec.getLsbD_setWidth]
    have : i < 160 := by omega
    simp [hi, this]
  have := congrArg BitVec.toNat this
  rw [BitVec.toNat_setWidth] at this
  exact this

/-- A new tag leaves the other bytes. -/
theorem byteOf_withTag (img : Image20) (c : Byte) (b : Nat) (h : 1 ≤ b) : byteOf (withTag img c) b = byteOf img b :=
  withTag_field _ _ _ _ (by omega)

/-- A new tag leaves every extract above the tag byte. -/
theorem extract_withTag (img : Image20) (c : Byte) (lo len : Nat) (h : 8 ≤ lo) :
    (withTag img c).extractLsb' lo len = img.extractLsb' lo len := by
  apply BitVec.eq_of_getLsbD_eq
  intro i hi
  simp only [BitVec.getLsbD_extractLsb']
  rw [withTag_getLsbD _ _ _ (by omega)]

/-- passedTag changes a REJECTED record alone. -/
theorem passedTag_cases (img : Image20) :
    passedTag img = img ∨ (tagOf img = .rejected ∧ passedTag img = withTag img 1) := by
  unfold passedTag
  split
  · rename_i h; exact Or.inr ⟨by simpa using h, rfl⟩
  · exact Or.inl rfl

/-- Tag code 1 is VALID. -/
theorem tagOf_withTag_one (img : Image20) : tagOf (withTag img 1) = .valid := by
  unfold tagOf; rw [byteOf_zero_withTag]; rfl

/-- A record in use stays in use. -/
theorem inUse_passedTag (img) : inUse (passedTag img) = inUse img := by
  rcases passedTag_cases img with h | ⟨h, h2⟩
  · rw [h]
  · rw [h2]; unfold inUse; rw [tagOf_withTag_one, h]; rfl

/-- A record is judged the same after passedTag. -/
theorem judged_passedTag (img : Image20) (x) : judged (passedTag img) x = judged img x := by
  rcases passedTag_cases img with h | ⟨h, h2⟩
  · rw [h]
  · rw [h2]; unfold judged; rw [tagOf_withTag_one, h]

/-- passedTag leaves no REJECTED record. -/
theorem notRejected_passedTag (img) : notRejected (passedTag img) = true := by
  unfold passedTag notRejected
  split
  · rw [tagOf_withTag_one]; rfl
  · rename_i h; simpa using h

/-- Bits above the tag byte. -/
theorem getLsbD_passedTag (img : Image20) (i) (h : 8 ≤ i) : (passedTag img).getLsbD i = img.getLsbD i := by
  rcases passedTag_cases img with h' | ⟨_, h2⟩
  · rw [h']
  · rw [h2, withTag_getLsbD _ _ _ h]

/-- Fields above the tag byte. -/
theorem field_passedTag (img : Image20) (lo len) (h : 8 ≤ lo) : field (passedTag img) lo len = field img lo len := by
  rcases passedTag_cases img with h' | ⟨_, h2⟩
  · rw [h']
  · rw [h2, withTag_field _ _ _ _ h]

/-- Bytes behind the tag byte. -/
theorem byteOf_passedTag (img : Image20) (b) (h : 1 ≤ b) :
    byteOf (passedTag img) b = byteOf img b := field_passedTag _ _ _ (by omega)

/-- Extracts above the tag byte. -/
theorem extract_passedTag (img : Image20) (lo len) (h : 8 ≤ lo) :
    (passedTag img).extractLsb' lo len = img.extractLsb' lo len := by
  rcases passedTag_cases img with h' | ⟨_, h2⟩
  · rw [h']
  · rw [h2, extract_withTag _ _ _ _ h]

/-- 16-bit numbers behind the tag byte. -/
theorem rawOf_passedTag (img : Image20) (b) (h : 1 ≤ b) :
    rawOf (passedTag img) b = rawOf img b := extract_passedTag _ _ _ (by omega)

/-- Term indices. -/
theorem optTerm_passedTag (img : Image20) (lo) (h : 8 ≤ lo) : optTerm (passedTag img) lo = optTerm img lo := by
  unfold optTerm; simp only [field_passedTag img lo 5 h, getLsbD_passedTag img (lo+7) (by omega)]

/-- Template indices. -/
theorem optTemplate_passedTag (img : Image20) (lo) (h : 8 ≤ lo) :
    optTemplate (passedTag img) lo = optTemplate img lo := by
  unfold optTemplate; simp only [field_passedTag img lo 4 h, getLsbD_passedTag img (lo+7) (by omega)]

/-- Patches. -/
theorem rttPatches_passedTag (img : Image20) : rttPatches (passedTag img) = rttPatches img := by
  simp only [rttPatches, patchAt, field_passedTag img, getLsbD_passedTag img, Nat.reduceLeDiff, Nat.reduceAdd]

/-- A SIGNAL condition. -/
theorem parseSignal_passedTag (img : Image20) (pos) (h : 2 ≤ pos) :
    parseSignal (passedTag img) pos = parseSignal img pos := by
  simp only [parseSignal, byteOf_passedTag img (pos+1) (by omega), byteOf_passedTag img pos (by omega),
    rawOf_passedTag img (pos+2) (by omega), rawOf_passedTag img (pos+4) (by omega),
      rawOf_passedTag img (pos+6) (by omega)]

/-- A condition. -/
theorem parseCond_passedTag (img : Image20) (pos) (h : 2 ≤ pos) :
    parseCond (passedTag img) pos = parseCond img pos := by
  unfold parseCond
  simp only [byteOf_passedTag img (pos+1) (by omega), byteOf_passedTag img pos (by omega),
    parseSignal_passedTag img pos h]

/-- A condition ends at or behind its head byte. -/
theorem parseCond_advances {img : Image20} {pos c n} (h : parseCond img pos = some (c, n)) : pos ≤ n := by
  unfold parseCond at h
  simp only [] at h
  split at h
  · unfold parseSignal at h
    cases hr : relOf (byteOf img (pos+1)) <;> simp [hr] at h
    obtain ⟨_, h⟩ := h; split at h <;> omega
  · simp at h; omega
  · cases hr : channelOf (byteOf img pos / 8 % 4) <;> simp [hr] at h; omega
  · cases hr : tankOf (byteOf img pos / 8 % 4) <;> simp [hr] at h; omega
  · simp at h; omega
  · split at h <;> simp at h; omega
  · simp at h

/-- A condition list from a byte behind the tag and combiner. -/
theorem parseConds_passedTag (img : Image20) :
    ∀ n pos, 2 ≤ pos → parseConds (passedTag img) n pos = parseConds img n pos
  | 0, _, _ => rfl
  | n+1, pos, h => by
    unfold parseConds
    rw [parseCond_passedTag img pos h]
    cases hc : parseCond img pos with
    | none => rfl
    | some x =>
      obtain ⟨c, nx⟩ := x
      simp only []
      rw [parseConds_passedTag img n nx (h.trans (parseCond_advances hc))]

/-- The condition list of a term. -/
theorem ittParse_passedTag (img : Image20) : ittParse (passedTag img) = ittParse img := by
  unfold ittParse; rw [field_passedTag img 9 2 (by omega), parseConds_passedTag img _ 2 (by omega)]

/-- Reading a vector given by a function. -/
theorem ofFn_get {n : Nat} {α : Type} (f : Fin n → α) (i : Fin n) : (Vector.ofFn f).get i = f i := by
  show (Vector.ofFn f)[i.val] = f i
  simp

/-- With nothing failed, retag is passedTag. -/
theorem retag_nil (tb ix img) : retag [] tb ix img = passedTag img := by simp [retag]

variable (t : Tables)

/-- Terms after a COMMIT in which nothing failed. -/
theorem itt_retagged (i : Fin 24) : (t.retagged []).itt.get i = passedTag (t.itt.get i) := by
  simp only [Tables.retagged, ofFn_get, retag_nil]

/-- Templates after a COMMIT in which nothing failed. -/
theorem rtt_retagged (i : Fin 16) : (t.retagged []).rtt.get i = passedTag (t.rtt.get i) := by
  simp only [Tables.retagged, ofFn_get, retag_nil]

/-- FRT entries after a COMMIT in which nothing failed. -/
theorem frt_retagged (i : Fin 96) : (t.retagged []).frt.get i = passedTag (t.frt.get i) := by
  simp only [Tables.retagged, ofFn_get, retag_nil]

/-- Drive records after a COMMIT in which nothing failed. -/
theorem drives_retagged (i : Fin 3) : (t.retagged []).drives.get i = passedTag (t.drives.get i) := by
  simp only [Tables.retagged, ofFn_get, retag_nil]

/-- Tank records after a COMMIT in which nothing failed. -/
theorem tanks_retagged (i : Fin 3) : (t.retagged []).tanks.get i = passedTag (t.tanks.get i) := by
  simp only [Tables.retagged, ofFn_get, retag_nil]

/-- Terms, by their number. -/
theorem itt_getElem_retagged (j : Nat) (hj : j < 24) :
    (t.retagged []).itt[j] = passedTag t.itt[j] := itt_retagged t ⟨j, hj⟩

/-- R70 judges the same. -/
theorem ittOk_passedTag (img i ok) : ittOk (passedTag img) i ok = ittOk img i ok := by
  simp only [ittOk, judged_passedTag, ittParse_passedTag]

/-- The same terms pass. -/
theorem ittPasses_retagged : ∀ n, ittPasses (t.retagged []) n = ittPasses t n
  | 0 => by simp only [ittPasses]
  | n+1 => by
    rw [ittPasses, ittPasses, ittPasses_retagged n]
    simp only [itt_getElem_retagged, ittOk_passedTag, inUse_passedTag]

/-- The same terms may be named. -/
theorem termNamed_retagged (ps) (j) : termNamed (t.retagged []) ps j = termNamed t ps j := by
  simp only [termNamed, itt_retagged, inUse_passedTag]

/-- The template list. -/
theorem rtt_toList_retagged : (t.retagged []).rtt.toList = t.rtt.toList.map passedTag := by
  apply List.ext_getElem
  · simp
  · intro i h1 h2
    have h : i < 16 := by simpa using h1
    rw [List.getElem_map, Vector.getElem_toList, Vector.getElem_toList]
    exact rtt_retagged t ⟨i, h⟩

/-- The reissue count. -/
theorem reissueCount_retagged : reissueCount (t.retagged []) = reissueCount t := by
  unfold reissueCount
  rw [rtt_toList_retagged, List.filter_map, List.length_map]
  congr 1
  apply List.filter_congr
  intro x _
  simp only [Function.comp, inUse_passedTag, rttReissue, getLsbD_passedTag x 8 (by omega)]

/-- Parameters stay. -/
theorem params_retagged : (t.retagged []).params = t.params := by simp only [Tables.retagged]

/-- Slot records stay. -/
theorem slots_retagged : (t.retagged []).slots = t.slots := by simp only [Tables.retagged]

/-- Roles stay. -/
theorem roles_retagged : (t.retagged []).roles = t.roles := by simp only [Tables.retagged]

/-- MGMT_BASE stays. -/
theorem mgmtBase_retagged : (t.retagged []).mgmtBase = t.mgmtBase := by simp only [Tables.mgmtBase, params_retagged]

/-- The identifier replacement. -/
theorem rttReplacement_passedTag (img : Image20) : rttReplacement (passedTag img) = rttReplacement img := by
  simp only [rttReplacement, getLsbD_passedTag img 9 (by omega), extract_passedTag img 32 29 (by omega)]

/-- R33 for templates judges the same where count and MGMT_BASE are the same. -/
theorem rttOk_of_same (u : Tables) (img) (h1 : reissueCount u = reissueCount t) (h2 : u.mgmtBase = t.mgmtBase) :
    rttOk u (passedTag img) = rttOk t img := by
  unfold rttOk
  simp only [judged_passedTag, rttPatches_passedTag, rttReplacement_passedTag, h1, h2, rttReissue,
    getLsbD_passedTag img 8 (by omega)]

/-- R33 for templates judges the same. -/
theorem rttOk_retagged (img) : rttOk (t.retagged []) (passedTag img) = rttOk t img :=
  rttOk_of_same t _ img (reissueCount_retagged t) (mgmtBase_retagged t)

/-- R188 reads the parameters alone. -/
theorem paramOk_of_same (u : Tables) (n) (h : u.params = t.params) : paramOk u n = paramOk t n := by
  unfold paramOk Tables.param; rw [h]

/-- R188 judges the same. -/
theorem paramOk_retagged (n) : paramOk (t.retagged []) n = paramOk t n := paramOk_of_same t _ n (params_retagged t)

/-- Named templates are judged the same where the templates are. -/
theorem templateNamed_of_same (u : Tables) (h1 : ∀ k, u.rtt.get k = passedTag (t.rtt.get k))
    (h2 : ∀ img, rttOk u (passedTag img) = rttOk t img) (o) : templateNamed u o = templateNamed t o := by
  cases o with
  | none => rfl
  | some k => simp only [templateNamed, h1, h2, inUse_passedTag]

/-- The same templates may be named. -/
theorem templateNamed_retagged (o) :
    templateNamed (t.retagged []) o = templateNamed t o := templateNamed_of_same t _ (rtt_retagged t) (rttOk_retagged t) o

/-- Actions. -/
theorem frtAction_passedTag (img) :
    frtAction (passedTag img) = frtAction img := by simp only [frtAction, field_passedTag img 10 2 (by omega)]

/-- Extraction lists. -/
theorem frtExtractions_passedTag (img) : frtExtractions (passedTag img) = frtExtractions img := by
  simp only [frtExtractions, extractionAt, byteOf_passedTag img 14 (by omega), field_passedTag img, Nat.reduceLeDiff,
    Nat.reduceAdd]

/-- R33 for entries judges the same. -/
theorem frtOk_retagged (ps img) : frtOk (t.retagged []) ps (passedTag img) = frtOk t ps img := by
  unfold frtOk
  rw [judged_passedTag, field_passedTag img 8 2 (by omega), byteOf_passedTag img 14 (by omega),
    byteOf_passedTag img 3 (by omega), frtAction_passedTag, frtExtractions_passedTag, templateNamed_retagged,
      templateNamed_retagged]
  have h1 : gateTermOk (t.retagged []) ps (passedTag img) = gateTermOk t ps img := by
    unfold gateTermOk
    rw [frtAction_passedTag, show frtTerm (passedTag img) = frtTerm img from optTerm_passedTag img 16 (by omega)]
    simp only [termNamed_retagged]
  rw [h1, show frtOpen (passedTag img) = frtOpen img from optTemplate_passedTag img 96 (by omega),
    show frtClosed (passedTag img) = frtClosed img from optTemplate_passedTag img 104 (by omega)]

/-- R94 judges the same. -/
theorem driveOk_retagged (ps img) : driveOk (t.retagged []) ps (passedTag img) = driveOk t ps img := by
  unfold driveOk
  rw [judged_passedTag, optTerm_passedTag img 8 (by omega)]
  simp only [termNamed_retagged, field_passedTag img, getLsbD_passedTag img, Nat.reduceLeDiff]

/-- R121 judges the same. -/
theorem tankOk_retagged (k) : tankOk (t.retagged []) k = tankOk t k := by
  unfold tankOk
  rw [tanks_retagged]
  simp only [judged_passedTag]
  have : tankOfImage (passedTag (t.tanks.get (tankIndex k))) = tankOfImage (t.tanks.get (tankIndex k)) := by
    simp only [tankOfImage, field_passedTag, getLsbD_passedTag, Nat.reduceLeDiff]
  rw [this]; simp only [Tables.pulseMode, Tables.boundTank, slots_retagged]

/-- A shadow set that a COMMIT makes active is judged as before. -/
theorem judgements_retagged : (t.retagged []).judgements = t.judgements := by
  unfold Tables.judgements
  simp only [ittPasses_retagged, frt_retagged, frtOk_retagged, rtt_retagged, rttOk_retagged, drives_retagged,
    driveOk_retagged, tankOk_retagged, slots_retagged, roles_retagged, paramOk_retagged]

/-- The tables that a successful COMMIT makes active pass every check and hold no REJECTED record (R189). -/
theorem sound_retagged (h : t.failing = []) : (t.retagged []).sound = true := by
  unfold Tables.sound Tables.failing
  rw [judgements_retagged]
  have : t.failing = [] := h
  unfold Tables.failing at this
  rw [this]
  have r : ∀ {n} (v : Vector Image20 n) (f : Fin n → Image20), (∀ i, ∃ x,
    f i = passedTag x) → (Vector.ofFn f).toList.all notRejected = true := by
    intro n v f hf
    rw [List.all_eq_true]; intro x hx
    rw [Vector.mem_toList_iff, Vector.mem_ofFn] at hx
    obtain ⟨i, rfl⟩ := hx
    obtain ⟨y, hy⟩ := hf i
    rw [hy]; exact notRejected_passedTag y
  simp only [List.isEmpty_nil, Bool.true_and, Tables.noRejected, Tables.retagged, retag_nil]
  rw [r t.frt _ (fun i => ⟨_, rfl⟩), r t.rtt _ (fun i => ⟨_, rfl⟩), r t.itt _ (fun i => ⟨_, rfl⟩),
    r t.drives _ (fun i => ⟨_, rfl⟩), r t.tanks _ (fun i => ⟨_, rfl⟩)]
  rfl

set_option maxRecDepth 100000 in
/-- The fallback configuration passes every check (R198). -/
theorem fallback_sound : Tables.fallback.sound = true := by
  decide

/-- A record of sound tables passes. -/
theorem passes_of_sound (h : t.sound = true) {tb ix : Nat} {ok : Bool} (hm : (tb, ix, ok) ∈ t.judgements) : ok = true := by
  cases ok with
  | true => rfl
  | false =>
    have hf : (tb, ix) ∈ t.failing := List.mem_filterMap.2 ⟨(tb, ix, false), hm, rfl⟩
    unfold Tables.sound at h
    rw [Bool.and_eq_true] at h
    rw [List.isEmpty_iff.1 h.1] at hf
    simp at hf

/-- The judgement of an FRT entry. -/
theorem frt_judged (e : Fin 96) : (0, e.val, frtOk t (ittPasses t 24) (t.frt.get e)) ∈ t.judgements := by
  unfold Tables.judgements
  simp only []
  generalize ittPasses t 24 = ps
  have h := List.mem_map_of_mem (f := fun i : Fin 96 => ((0 : Nat), i.val, frtOk t ps (t.frt.get i)))
    (List.mem_finRange e)
  simp only [List.mem_append]
  exact Or.inl (Or.inl (Or.inl (Or.inl (Or.inl (Or.inl (Or.inl h))))))

/-- The judgement of a template. -/
theorem rtt_judged (k : Fin 16) : (1, k.val, rttOk t (t.rtt.get k)) ∈ t.judgements := by
  unfold Tables.judgements
  simp only []
  generalize ittPasses t 24 = ps
  have h := List.mem_map_of_mem (f := fun i : Fin 16 => ((1 : Nat), i.val, rttOk t (t.rtt.get i))) (List.mem_finRange k)
  simp only [List.mem_append]
  exact Or.inl (Or.inl (Or.inl (Or.inl (Or.inl (Or.inl (Or.inr h))))))

/-- The judgement of a term. -/
theorem itt_judged (i : Fin 24) : (2, i.val, (ittPasses t 24).getD i.val false) ∈ t.judgements := by
  unfold Tables.judgements
  simp only []
  generalize ittPasses t 24 = ps
  have h := List.mem_map_of_mem (f := fun j : Fin 24 => ((2 : Nat), j.val, ps.getD j.val false)) (List.mem_finRange i)
  simp only [List.mem_append]
  exact Or.inl (Or.inl (Or.inl (Or.inl (Or.inl (Or.inr h)))))

end Sys2Proof.Machine
end

