-- ==== Sys2Proof/Laws/Terms.lean ====
section
/-! SUPPORT. The recomputation of the terms: what a term's result depends on, and that one pass in rising order settles every
term (R77), also at the beginning of RUN (R81); TERM conditions of sound tables name lower terms (R70, R189). -/

namespace Sys2Proof.Machine

/-- Reading a vector of results after one was replaced. -/
theorem get_set (v : Vector Tri 24) (i j : Fin 24) (x : Tri) : (v.set i.val x).get j = if i = j then x else v.get j := by
  show (v.set i.val x)[j.val] = _
  rw [Vector.getElem_set]
  by_cases h : i = j
  · subst h; simp
  · rw [if_neg h, if_neg (fun h' => h (Fin.ext h'))]; rfl

/-- A condition's result depends, for a TERM condition alone, on the named term's result. -/
theorem condResult_of_same (r q : Vector Tri 24) (m : Tri) (c : Cond) (h : ∀ j, c = .term j → q.get j = r.get j) :
    condResult q m c = condResult r m c := by
  cases c <;> simp only [condResult]
  rename_i j; exact h j rfl

/-- A term's result depends on its record, on the results its conditions hold, and on the results of the terms it names. -/
theorem termResult_of_same (s u : State) (r q : Vector Tri 24) (t : Fin 24) (h0 : u.active = s.active)
    (hm : (u.ilk.mem.get t) = s.ilk.mem.get t) (h : ∀ j, Cond.term j ∈ s.active.conds t → q.get j = r.get j) :
    termResult u q t = termResult s r t := by
  have e : condResults u q t = condResults s r t := by
    unfold condResults
    rw [h0, hm]
    apply List.map_congr_left
    rintro ⟨c, j⟩ hx
    apply condResult_of_same
    intro k hk
    apply h
    rw [← hk]
    exact List.fst_mem_of_mem_zipIdx hx
  unfold termResult
  rw [e, h0]

/-- The results of the first n terms computed in rising order. -/
def resultsTo (s : State) (n : Nat) : Vector Tri 24 :=
  ((List.finRange 24).take n).foldl (fun rs t => rs.set t.val (termResult s rs t)) s.ilk.terms

/-- One more term computed. -/
theorem resultsTo_succ (s : State) (n : Fin 24) :
    resultsTo s (n.val + 1) = (resultsTo s n.val).set n.val (termResult s (resultsTo s n.val) n) := by
  have h : (List.finRange 24).take (n.val + 1) = (List.finRange 24).take n.val ++ [n] := by
    rw [List.take_add_one]; simp
  unfold resultsTo
  rw [h, List.foldl_append]
  rfl

/-- Each term computed so far has the result that its conditions give it. -/
theorem resultsTo_settles (s : State) (low : ∀ t j : Fin 24, Cond.term j ∈ s.active.conds t → j < t) :
    ∀ n ≤ 24, ∀ t : Fin 24, t.val < n → (resultsTo s n).get t = termResult s (resultsTo s n) t
  | 0, _, _, h => by omega
  | n + 1, hn, t, ht => by
    have ih := resultsTo_settles s low n (by omega)
    have hs := resultsTo_succ s ⟨n, by omega⟩
    simp only [] at hs
    generalize resultsTo s n = q at ih hs
    have g : ∀ j, (resultsTo s (n + 1)).get j =
        if (⟨n, by omega⟩ : Fin 24) = j then termResult s q ⟨n, by omega⟩ else q.get j := by
      intro j; rw [hs]; exact get_set q ⟨n, by omega⟩ j _
    have same : termResult s (resultsTo s (n + 1)) t = termResult s q t := by
      apply termResult_of_same _ _ _ _ _ rfl rfl
      intro j hj
      have hl := Fin.lt_def.1 (low t j hj)
      rw [g, if_neg]
      intro h
      rw [← h] at hl
      simp at hl
      omega
    by_cases h : t.val = n
    · have ht : t = ⟨n, by omega⟩ := Fin.ext h
      rw [same, g, if_pos ht.symm, ht]
    · rw [same, g, if_neg (fun h' => h (by rw [← h']))]
      exact ih t (by omega)

/-- One pass in rising order gives every term the result that its conditions give it, where TERM conditions name lower terms
(R77). -/
theorem allResults_settles (s : State) (low : ∀ t j : Fin 24, Cond.term j ∈ s.active.conds t → j < t) (t : Fin 24) :
    (allResults s).get t = termResult s (allResults s) t := by
  have h : allResults s = resultsTo s 24 := by
    unfold allResults resultsTo
    rw [List.take_of_length_le (by simp)]
  rw [h]
  exact resultsTo_settles s low 24 (Nat.le_refl _) t t.isLt

/-- What a change of mode delivers and raises (R88, R89). -/
def modeDeliveries (before after : Mode) : List Instr :=
  if after = before then []
  else .csuInputDelivery (.mode after) ::
    (if after = .conflict then [.exceptionRaise { cls := .modeConflict, mode := .conflict }] else [])

/-- The mode machine's taking in one equation. -/
theorem takeMode_eq (s : State) :
    takeMode s = { s with
      ilk := { s.ilk with mode := modeNow s }, outbox := s.outbox ++ modeDeliveries s.ilk.mode (modeNow s) } := by
  unfold takeMode modeDeliveries
  by_cases h : modeNow s = s.ilk.mode
  · simp only [h, if_true]; simp
  · simp only [h, if_false]
    split <;> simp [State.raise, State.post, State.setIlk]

/-- What a place holds after every held result was replaced. -/
theorem memMap_get (s : State) (f : Cond → Tri → Tri) (t : Fin 24) (j : Fin 4) :
    ((memMap s f).get t).get j = memAt s f t j := by
  rw [memMap, ofFn_get, ofFn_get]

/-- What the place of a condition holds after every held result was replaced. -/
theorem memMap_cond (s : State) (f : Cond → Tri → Tri) {t : Fin 24} {j : Fin 4} {c : Cond}
    (h : (s.active.conds t)[j.val]? = some c) : ((memMap s f).get t).get j = f c ((s.ilk.mem.get t).get j) := by
  rw [memMap_get, memAt, h]

/-- The end of a taking in one equation: m the results that the conditions hold then, r those of the terms (R77, R78). -/
theorem takeConds_eq (s : State) (before : Mode) (f : Cond → Tri → Tri) {m : Vector (Vector Tri 4) 24}
    (hm : memMap s (reachConds s before f) = m) {r : Vector Tri 24} (hr : allResults (s.setMem m) = r) :
    takeConds s before f =
      { s with ilk := { s.ilk with mem := m, terms := r }, outbox := s.outbox ++ termDeliveries s.ilk.terms r } := by
  rw [takeConds, hm, recompute, hr]
  rfl

/-- A term's result in a state that holds other term results. -/
theorem termResult_terms (s : State) (r q : Vector Tri 24) (t : Fin 24) :
    termResult (s.setIlk { s.ilk with terms := r }) q t = termResult s q t :=
  termResult_of_same s (s.setIlk { s.ilk with terms := r }) q q t rfl rfl fun _ _ => rfl

/-! TERM conditions of sound tables. -/

/-- One judgement for each of the first n terms. -/
theorem ittPasses_length (t : Tables) : ∀ n, (ittPasses t n).length = n
  | 0 => rfl
  | n + 1 => by simp [ittPasses, ittPasses_length t n]

/-- The judgement of term k, among those of the first n terms (R70). -/
theorem ittPasses_getD (t : Tables) (k : Fin 24) : ∀ n, k.val < n → n ≤ 24 →
    (ittPasses t n).getD k.val false = ittOk (t.itt.get k) k.val
      (fun j => (ittPasses t k.val).getD j false && (if h' : j < 24 then inUse t.itt[j] else false))
  | 0, h, _ => by omega
  | n + 1, hk, hn => by
    rw [ittPasses]
    by_cases h : k.val < n
    · rw [List.getD_append _ _ _ _ (by rw [ittPasses_length]; exact h)]
      exact ittPasses_getD t k n h (by omega)
    · have e : n = k.val := by omega
      subst e
      rw [List.getD_append_right _ _ _ _ (by rw [ittPasses_length]), ittPasses_length, dif_pos k.isLt]
      simp [Vector.get]

/-- In sound tables the TERM conditions of a term name lower terms (R70, R189). -/
theorem conds_lower (t : Tables) (hs : t.sound = true) (i j : Fin 24) (hm : Cond.term j ∈ t.conds i) : j < i := by
  have pass := passes_of_sound t hs (itt_judged t i)
  rw [ittPasses_getD t i 24 i.isLt (Nat.le_refl _)] at pass
  unfold Tables.conds at hm
  split at hm
  · rename_i hv
    have ht : tagOf (t.itt.get i) = .valid := by simpa [isValid] using hv
    unfold ittOk judged at pass
    rw [ht] at pass
    unfold ittConds at hm
    cases hp : ittParse (t.itt.get i) with
    | none => rw [hp] at hm; simp at hm
    | some cs =>
      rw [hp] at hm pass
      have h := List.all_eq_true.1 pass _ hm
      unfold condOk at h
      simp only [Bool.and_eq_true, decide_eq_true_eq] at h
      exact h.1
  · simp at hm

/-- ILK's taking of the beginning of RUN in one equation: m the results that the conditions hold then, r those of the terms
(R81). -/
theorem ilkBegin_eq (s : State) {m : Vector (Vector Tri 4) 24} (hm : memMap s (fun c _ => inputResult s c) = m)
    {r : Vector Tri 24} (hr : allResults (s.setIlk { s.ilk with mem := m, terms := resetTerms s.active }) = r) :
    ilkBegin s =
      { s with
        ilk := { s.ilk with mem := m, terms := r }
        outbox := s.outbox ++ termDeliveries (resetTerms s.active) r } := by
  rw [ilkBegin, hm, recompute, hr]
  rfl

/-- From results of which none is TRUE only rises are delivered (R78, R81). -/
theorem termDeliveries_of_none (before after : Vector Tri 24) (h : ∀ k, before.get k ≠ .tt) :
    termDeliveries before after = (List.finRange 24).flatMap fun k =>
      if after.get k = .tt then [.termRiseAtFre k, .permitTermRise k] else [] := by
  unfold termDeliveries
  congr 1
  funext k
  simp [termDelivery, h k]

/-- No term is TRUE in the results that a reset leaves (R81). -/
theorem resetTerms_none (t : Tables) (k : Fin 24) : (resetTerms t).get k ≠ .tt := by
  rw [resetTerms, ofFn_get]
  split <;> decide

end Sys2Proof.Machine
end

