-- ==== Sys2Proof/Laws/Commit.lean ====
section
/-! SUPPORT. What each step of a successful commit does (R192): one lemma per step, in the words of Sys2Proof/Safety.lean. -/

namespace Sys2Proof.Machine

open Sys2Proof.Safety

/-- Nothing delivered. -/
theorem post_nil (s : State) : s.post [] = s := by simp [State.post]

/-- A value given case by case. -/
theorem eq_ite {α : Type} {c : Prop} [Decidable c] {x a b : α} (h1 : c → x = a) (h2 : ¬c → x = b) :
    x = if c then a else b := by
  split
  · exact h1 ‹_›
  · exact h2 ‹_›

/-! Ports. -/

/-- No frame is taken first only where none waits. -/
theorem takeFirst_none {l : List QueuedFrame} (h : takeFirst l = none) : l = [] := by
  cases l with
  | nil => rfl
  | cons a l =>
    unfold takeFirst at h
    split at h
    · cases h
    · split at h <;> cases h

/-- The arbiter at a port where one frame waits and none is in flight. -/
theorem arbitrate_one (r : PortRec) (q : QueuedFrame) (h1 : r.inFlight = none) (h2 : r.waiting = [q]) :
    ∀ x ∈ r.arbitrate.frames, x = q := by
  intro x hx
  unfold PortRec.arbitrate at hx
  split at hx
  · simp [PortRec.frames, h1, h2] at hx; exact hx
  · simp [PortRec.frames, h1, h2] at hx; exact hx
  · simp [PortRec.frames, h1, h2] at hx; exact hx
  · rename_i b rest _ hq _
    rw [h2] at hq
    simp [takeFirst] at hq
    obtain ⟨rfl, rfl⟩ := hq
    simpa [PortRec.frames] using hx

/-- A port that is left as it is. -/
theorem portKept_refl (r : PortRec) : PortKept r r :=
  ⟨rfl, fun _ => ⟨rfl, [], by simp, by simp⟩, fun h1 h2 x hx => by simp [PortRec.frames, h1, h2] at hx⟩

/-- A port to which a part-originated frame is added. -/
theorem portKept_add (r : PortRec) (f : Frame) (m : Bool) : PortKept r (r.add { frame := f, kind := .part, mark := m }) := by
  refine ⟨?_, fun h => ?_, fun h1 h2 x hx => ?_⟩
  · unfold PortRec.add PortRec.arbitrate
    repeat' split
    all_goals rfl
  · have e : r.add { frame := f, kind := .part, mark := m } =
        { r with waiting := r.waiting ++ [{ frame := f, kind := .part, mark := m }] } := by
      unfold PortRec.add PortRec.arbitrate
      split
      · rfl
      · rfl
      · rfl
      · rename_i hh _ _; exact absurd hh h
    rw [e]
    exact ⟨rfl, [_], rfl, by simp⟩
  · rw [arbitrate_one { r with waiting := r.waiting ++ [{ frame := f, kind := .part, mark := m }] } _ h1
      (by simp [h2]; rfl) x hx]

/-- Both ports across a request to queue a part-originated frame (R7). -/
theorem queuePart_kept (s : State) (p : Port) (f : Frame) :
    PortKept s.cp (queuePart s p f).cp ∧ PortKept s.bp (queuePart s p f).bp := by
  unfold queuePart
  simp only []
  split
  · exact ⟨portKept_refl _, portKept_refl _⟩
  · cases p
    · exact ⟨portKept_add _ _ _, portKept_refl _⟩
    · exact ⟨portKept_refl _, portKept_add _ _ _⟩

/-- The port named by a request to queue a part-originated frame, from its record alone (R7). -/
theorem queuePart_port (s : State) (p : Port) (f : Frame) : (queuePart s p f).port p =
    if (s.port p).state = .off || Config.partShare ≤ (s.port p).partDepth then s.port p
    else (s.port p).add { frame := f, kind := .part, mark := false } := by
  unfold queuePart
  cases p <;> simp only [] <;> split <;> rfl

/-- The other port is left as it is. -/
theorem queuePart_other (s : State) (p : Port) (f : Frame) : (queuePart s p f).port p.other = s.port p.other := by
  unfold queuePart
  cases p <;> simp only [] <;> split <;> rfl

/-- Both ports across the sending of a notice (R171). -/
theorem sendNotice_kept (s : State) (before : BitVec 18) (r : Raise) :
    PortKept s.cp (sendNotice s before r).cp ∧ PortKept s.bp (sendNotice s before r).bp := by
  unfold sendNotice
  split
  · exact ⟨portKept_refl _, portKept_refl _⟩
  · exact queuePart_kept _ _ _

/-- Both ports across the sending of a notice: queued on the report port where one is called for (R171). -/
theorem sendNotice_ports (s : State) (before : BitVec 18) (r : Raise) :
    let f := noticeFrame s.active r s.exc.pend
    let called := hasClass before r.cls = false ∧ s.active.param 23 = 1
    (sendNotice s before r).cp = (if called ∧ s.active.param 4 = 0 then (queuePart s .cp f).cp else s.cp) ∧
    (sendNotice s before r).bp = (if called ∧ s.active.param 4 = 1 then (queuePart s .bp f).bp else s.bp) := by
  intro f called
  have on : (!hasClass before r.cls && s.active.noticesOn) = true ↔ called := by
    unfold Tables.noticesOn
    simp [called]
  unfold sendNotice noticePort
  by_cases hc : called
  · rw [if_pos (on.2 hc)]
    unfold Tables.reportPort
    split
    · rename_i hp
      split at hp <;> try cases hp
      rename_i h0 h1
      exact ⟨(if_neg fun h => h0 h.2).symm, (if_neg fun h => h1 h.2).symm⟩
    · rename_i p hp
      split at hp <;> try cases hp
      · rename_i h0
        refine ⟨(if_pos ⟨hc, h0⟩).symm, ?_⟩
        rw [if_neg fun h => by rw [h0] at h; exact absurd h.2 (by decide)]
        exact queuePart_other s .cp f
      · rename_i h1
        refine ⟨?_, (if_pos ⟨hc, h1⟩).symm⟩
        rw [if_neg fun h => by rw [h1] at h; exact absurd h.2 (by decide)]
        exact queuePart_other s .bp f
  · rw [if_neg fun h => hc (on.1 h)]
    exact ⟨(if_neg fun h => hc h.1).symm, (if_neg fun h => hc h.1).symm⟩

/-! EXC and FRE. -/

/-- One held frame of the purge, taken by EXC (R40). -/
def purgeOne (s : State) (h : HeldFrame) : State := excTake s (purgedRaise s.ilk.mode h)

/-- The purge goes through the held frames in arrival order. -/
theorem purge_eq (s : State) : purge s = s.fre.hold.foldl purgeOne (s.setHold []) := rfl

/-- A set of classes with a class set twice. -/
theorem or_twoPow_self {v : BitVec 18} (h : v.getLsbD 14 = true) : v ||| BitVec.twoPow 18 14 = v := by
  apply BitVec.eq_of_getLsbD_eq
  intro i hi
  simp [BitVec.getLsbD_twoPow]
  rintro rfl
  exact h

/-- The summary while HOLD_DISCARD is flagged and unmasked. -/
theorem summaryOf_flagged {flags mask : BitVec 18} (h1 : flags.getLsbD 14 = true) (h2 : mask.getLsbD 14 = false) :
    summaryOf flags mask = true := by
  unfold summaryOf
  simp only [bne_iff_ne, ne_eq]
  intro h
  have := congrArg (fun v => v.getLsbD 14) h
  simp only [BitVec.getLsbD_and, BitVec.getLsbD_not, h1, h2] at this
  simp at this

/-- HOLD_DISCARD masked: the purge sets the class's flag alone. -/
theorem purge_masked : ∀ (hs : List HeldFrame) (u : State), u.active.mask.getLsbD 14 = true →
    hs.foldl purgeOne u =
      { u with exc := { u.exc with flags := if hs = [] then u.exc.flags else u.exc.flags ||| BitVec.twoPow 18 14 } }
  | [], u, _ => by simp
  | x :: xs, u, h => by
    have e : purgeOne u x = { u with exc := { u.exc with flags := u.exc.flags ||| BitVec.twoPow 18 14 } } := by
      unfold purgeOne excTake
      rw [if_pos (by exact h)]
      rfl
    rw [List.foldl_cons, e]
    refine (purge_masked xs { u with exc := { u.exc with flags := u.exc.flags ||| BitVec.twoPow 18 14 } } h).trans ?_
    simp only [reduceCtorEq, if_false]
    split
    · rfl
    · rw [BitVec.or_assoc, BitVec.or_self]

/-- The class flagged, pending and unmasked with the capture record full: the purge sets the further flag alone. -/
theorem purge_rest : ∀ (hs : List HeldFrame) (u : State) (k : Capture), u.active.mask.getLsbD 14 = false →
    u.exc.flags.getLsbD 14 = true → u.exc.pend.getLsbD 14 = true → u.exc.capture = some k → u.exc.summary = true →
    u.outs.alarm = true →
      hs.foldl purgeOne u =
        { u with exc := { u.exc with capture := some { k with further := k.further || !hs.isEmpty } } }
  | [], u, k, _, _, _, h, _, _ => by simp [← h]
  | x :: xs, u, k, h1, h2, h3, h4, h5, h6 => by
    have hm : markRaise u (purgedRaise u.ilk.mode x) =
        { u with exc := { u.exc with capture := some { k with further := true } } } := by
      unfold markRaise flagsAfter pendAfter
      simp only [purgedRaise, show classBit .holdDiscard = BitVec.twoPow 18 14 from rfl, or_twoPow_self h2,
        or_twoPow_self h3, summaryOf_flagged h2 h1, h4, captureAfter, State.setExc, State.setOuts]
      rw [← h5]
      congr 1
      cases ho : u.outs
      simp_all
    have e : purgeOne u x = { u with exc := { u.exc with capture := some { k with further := true } } } := by
      unfold purgeOne excTake
      rw [if_neg (by show ¬u.active.mask.getLsbD 14 = true; rw [h1]; decide), hm]
      unfold sendNotice noticePort
      simp only [purgedRaise, hasClass, classNumber, h3]
      rfl
    rw [List.foldl_cons, e]
    exact (purge_rest xs { u with exc := { u.exc with capture := some { k with further := true } } } _ h1 h2 h3 rfl h5
      h6).trans (by simp)

/-- EXC's state after the first purged frame of an unmasked class. -/
def firstPurged (u : State) (h : HeldFrame) : ExcRec :=
  { flags := u.exc.flags ||| BitVec.twoPow 18 14, pend := u.exc.pend ||| BitVec.twoPow 18 14, summary := true
    capture := some (match u.exc.capture with
      | some k => { k with further := true }
      | none => { raise := purgedRaise u.ilk.mode h, further := false }) }

/-- The notice that the first purged frame of an unmasked class calls for (R172). -/
def purgeNotice (u : State) (h : HeldFrame) : Frame :=
  noticeFrame u.active (purgedRaise u.ilk.mode h) (u.exc.pend ||| BitVec.twoPow 18 14)

/-- HOLD_DISCARD calls for a notice (R171). -/
def purgeCalls (u : State) : Prop := u.exc.pend.getLsbD 14 = false ∧ u.active.param 23 = 1

/-- The first purged frame of an unmasked class: EXC's state, the alarm line, and the notice on the report port. -/
theorem purge_first (u : State) (h : HeldFrame) (hm : u.active.mask.getLsbD 14 = false) :
    ∃ cp bp, purgeOne u h =
        { u with cp := cp, bp := bp, exc := firstPurged u h, outs := { u.outs with alarm := true } } ∧
      PortKept u.cp cp ∧ PortKept u.bp bp ∧
      (purgeCalls u ∧ u.active.param 4 = 0 → cp = (queuePart u .cp (purgeNotice u h)).cp) ∧
      (¬(purgeCalls u ∧ u.active.param 4 = 0) → cp = u.cp) ∧
      (purgeCalls u ∧ u.active.param 4 = 1 → bp = (queuePart u .bp (purgeNotice u h)).bp) ∧
      (¬(purgeCalls u ∧ u.active.param 4 = 1) → bp = u.bp) := by
  have hk : markRaise u (purgedRaise u.ilk.mode h) =
      { u with exc := firstPurged u h, outs := { u.outs with alarm := true } } := by
    have hs := summaryOf_flagged (flags := u.exc.flags ||| BitVec.twoPow 18 14) (by rw [BitVec.getLsbD_or]; simp) hm
    unfold markRaise flagsAfter pendAfter firstPurged
    simp only [purgedRaise, show classBit .holdDiscard = BitVec.twoPow 18 14 from rfl, hs, captureAfter, State.setExc,
      State.setOuts]
    cases u.exc.capture <;> rfl
  unfold purgeOne excTake
  rw [if_neg (by show ¬u.active.mask.getLsbD 14 = true; rw [hm]; decide), hk]
  generalize hw : ({ u with exc := firstPurged u h, outs := { u.outs with alarm := true } } : State) = w
  have hp : ∀ p f, (queuePart w p f).port p = (queuePart u p f).port p := fun p f => by
    rw [queuePart_port, queuePart_port, ← hw]; cases p <;> rfl
  have hn : noticeFrame w.active (purgedRaise u.ilk.mode h) w.exc.pend = purgeNotice u h := by rw [← hw]; rfl
  have kept := sendNotice_kept w u.exc.pend (purgedRaise u.ilk.mode h)
  obtain ⟨n1, n2⟩ := sendNotice_ports w u.exc.pend (purgedRaise u.ilk.mode h)
  obtain ⟨a, b, e⟩ := sendNotice_frame w u.exc.pend (purgedRaise u.ilk.mode h)
  rw [e] at kept n1 n2 ⊢
  rw [hn] at n1 n2
  replace n1 := n1.trans (congrArg (ite _ · _) (hp .cp _))
  replace n2 := n2.trans (congrArg (ite _ · _) (hp .bp _))
  subst hw
  exact ⟨a, b, rfl, kept.1, kept.2, fun c => n1.trans (if_pos c), fun c => n1.trans (if_neg c),
    fun c => n2.trans (if_pos c), fun c => n2.trans (if_neg c)⟩

/-- EXC's mask change in one equation (R168). -/
theorem maskChange_eq (before : Tables) (s : State) : maskChange s before.mask =
    let on := fun was : Bool =>
      if before.mask = s.active.mask then was else decide (s.exc.flags &&& ~~~s.active.mask ≠ 0)
    { s with
      exc := { s.exc with pend := s.exc.pend &&& (before.mask ||| ~~~s.active.mask), summary := on s.exc.summary }
      outs := { s.outs with alarm := on s.outs.alarm } } := by
  unfold maskChange
  split
  · rename_i h
    have hz : s.active.mask ||| ~~~s.active.mask = BitVec.allOnes 18 := by
      apply BitVec.eq_of_getLsbD_eq
      intro i hi
      simp [hi]
    rw [h, hz, BitVec.and_allOnes]
  · rename_i h
    have : summaryOf s.exc.flags s.active.mask = decide (s.exc.flags &&& ~~~s.active.mask ≠ 0) := by
      unfold summaryOf
      rw [Bool.eq_iff_iff]
      simp
    simp [State.setExc, State.setSummary, State.setOuts, this]

/-- EXC takes a commit (R168). -/
theorem maskChange_step (before : Tables) (s : State) : CommitAtExc before s (maskChange s before.mask) :=
  ⟨maskChange_eq before s, fun h => if_pos h⟩

/-- FRE takes a commit (R40, R44). -/
theorem freCommit_step (s : State) : CommitAtFre s (freCommit s) := by
  have emptied : ∀ w, purge s = w → w.fre.hold = [] → freCommit s = { w with fre := { } } := by
    rintro w rfl h
    show ({ purge s with fre := { (purge s).fre with reissue := Vector.replicate 16 none } } : State) = _
    cases hw : (purge s).fre
    simp_all
  cases hl : s.fre.hold with
  | nil =>
    have e : purge s = s.setHold [] := by rw [purge_eq, hl]; rfl
    rw [emptied _ e rfl]
    refine ⟨rfl, portKept_refl _, portKept_refl _, fun _ => rfl, fun h => absurd hl h, fun h r hh => ?_⟩
    rw [hl] at hh; cases hh
  | cons x xs =>
    have h0 : s.fre.hold ≠ [] := by rw [hl]; simp
    by_cases hm : s.active.mask.getLsbD 14 = true
    · have e : purge s = { s.setHold [] with exc := { s.exc with flags := s.exc.flags ||| BitVec.twoPow 18 14 } } := by
        rw [purge_eq, purge_masked _ (s.setHold []) hm, if_neg h0]
        rfl
      rw [emptied _ e rfl]
      refine ⟨rfl, portKept_refl _, portKept_refl _, fun h => absurd h h0, fun _ _ => rfl, fun h r hh h2 => ?_⟩
      rw [hm] at h2; cases h2
    · have hm : s.active.mask.getLsbD 14 = false := by simpa using hm
      obtain ⟨cp, bp, hw, k1, k2, n1, n2, n3, n4⟩ := purge_first (s.setHold []) x hm
      generalize hk : (match s.exc.capture with
        | some k => { k with further := true }
        | none => { raise := purgedRaise s.ilk.mode x, further := false } : Capture) = k at *
      have hc : (firstPurged (s.setHold []) x).capture = some k := congrArg some hk
      have bit : ∀ b : BitVec 18, (b ||| BitVec.twoPow 18 14).getLsbD 14 = true := fun b => by
        rw [BitVec.getLsbD_or]; simp
      have e : purge s = { s.setHold [] with
          cp := cp, bp := bp, outs := { s.outs with alarm := true }
          exc := { firstPurged (s.setHold []) x with capture := some { k with further := k.further || !xs.isEmpty } } } := by
        rw [purge_eq, hl, List.foldl_cons, hw]
        refine (purge_rest xs _ k ?_ ?_ ?_ hc rfl rfl).trans rfl
        · exact hm
        · exact bit s.exc.flags
        · exact bit s.exc.pend
      rw [emptied _ e rfl]
      refine ⟨rfl, k1, k2, fun h => absurd h h0, fun _ h2 => ?_, fun h r hh h2 => ?_⟩
      · rw [hm] at h2; cases h2
      · rw [hl] at hh; cases hh
        subst hk
        have port : ∀ p f w, (w : State).port p = s.port p → (queuePart w p f).port p = (queuePart s p f).port p :=
          fun p f w e => by rw [queuePart_port, queuePart_port, e]
        refine ⟨?_, rfl, ?_, ?_⟩
        rotate_left
        · exact eq_ite (fun c => (n1 c).trans (port .cp _ _ rfl)) fun c => n2 c
        · exact eq_ite (fun c => (n3 c).trans (port .bp _ _ rfl)) fun c => n4 c
        show ({ firstPurged _ x with capture := _ } : ExcRec) = _
        unfold firstPurged
        cases s.exc.capture <;> rfl

/-! SIG. -/

/-- Putting back what a slot holds. -/
theorem setSlot_self (s : State) (i : Fin 32) : s.setSlot i (s.slot i) = s := by
  have : s.sig.slots.set i.val (s.sig.slots.get i) = s.sig.slots := by
    apply Vector.ext
    intro j hj
    rw [Vector.getElem_set]
    split
    · rename_i h; subst h; rfl
    · rfl
  unfold State.setSlot State.slot State.setSig
  rw [this]

/-- Putting back what a pulse input holds. -/
theorem setPulse_self (s : State) (i : Fin 4) : s.setPulse i (s.sig.pulses.get i) = s := by
  have : s.sig.pulses.set i.val (s.sig.pulses.get i) = s.sig.pulses := by
    apply Vector.ext
    intro j hj
    rw [Vector.getElem_set]
    split
    · rename_i h; subst h; rfl
    · rfl
  unfold State.setPulse State.setSig
  rw [this]

/-- Another slot than the one written, across the write's deliveries. -/
theorem setSlot_post_slot (s : State) {i j : Fin 32} (h : i ≠ j) (v : SlotRec) (ds : List Instr) :
    ((s.setSlot j v).post ds).slot i = s.slot i := get_set_ne _ h _

/-- A fold whose steps each put a record into a slot of their own and deliver something, both read from that slot. -/
theorem fold_slots {n : Nat} (f : State → Fin n → State) (slotOf : Fin n → Fin 32)
    (inj : ∀ x y, slotOf x = slotOf y → x = y) (new : State → Fin n → SlotRec) (out : State → Fin n → List Instr)
    (one : ∀ s x, f s x = (s.setSlot (slotOf x) (new s x)).post (out s x))
    (own : ∀ s y v ds x, x ≠ y →
      new ((s.setSlot (slotOf y) v).post ds) x = new s x ∧ out ((s.setSlot (slotOf y) v).post ds) x = out s x) :
    ∀ (l : List (Fin n)) (s : State), l.Nodup → ∃ S : Vector SlotRec 32,
      l.foldl f s = { s with sig := { s.sig with slots := S }, outbox := s.outbox ++ l.flatMap (out s) } ∧
      (∀ x ∈ l, S.get (slotOf x) = new s x) ∧ ∀ i, (∀ x ∈ l, slotOf x ≠ i) → S.get i = s.slot i
  | [], s, _ => ⟨s.sig.slots, by simp, by simp, fun _ _ => rfl⟩
  | x :: l, s, hn => by
    rw [List.nodup_cons] at hn
    obtain ⟨S, h1, h2, h3⟩ := fold_slots f slotOf inj new out one own l (f s x) hn.2
    have hne : ∀ y ∈ l, y ≠ x := fun y hy e => hn.1 (e ▸ hy)
    refine ⟨S, ?_, fun y hy => ?_, fun i hi => ?_⟩
    · have : l.flatMap (out (f s x)) = l.flatMap (out s) := by
        rw [List.flatMap_congr]
        intro y hy
        rw [one]
        exact (own s x _ _ y (hne y hy)).2
      rw [List.foldl_cons, h1, this, one]
      simp [State.post, State.setSlot, State.setSig]
    · rcases List.mem_cons.1 hy with rfl | hy
      · rw [h3 _ (fun z hz e => hne z hz (inj _ _ e)), one]
        exact get_set_self _ _ _
      · rw [h2 y hy, one]
        exact (own s x _ _ y (hne y hy)).1
    · rw [h3 i (fun y hy => hi y (List.mem_cons_of_mem _ hy)), one]
      exact get_set_ne _ (fun e => hi x (List.mem_cons_self ..) e.symm) _

/-- Switch inputs have slots of their own. -/
theorem switchSlot_inj : ∀ x y : Fin 6, switchSlot x = switchSlot y → x = y := by decide

/-- Pulse inputs have slots of their own. -/
theorem pulseSlot_inj : ∀ x y : Fin 4, pulseSlot x = pulseSlot y → x = y := by decide

/-- A switch slot after a commit (R60). -/
def inversionSlot (before : Tables) (s : State) (sw : Fin 6) : SlotRec :=
  if s.active.inverted sw = before.inverted sw then s.slot (switchSlot sw)
  else
    match (s.sig.switches.get sw).accepted with
    | none => s.slot (switchSlot sw)
    | some level =>
      (s.slot (switchSlot sw)).written s.active (switchSlot sw) s.now (switchValue (s.active.inverted sw) level) .line

/-- What a switch slot delivers at a commit (R60). -/
def inversionOut (before : Tables) (s : State) (sw : Fin 6) : List Instr :=
  if s.active.inverted sw = before.inverted sw then []
  else
    match (s.sig.switches.get sw).accepted with
    | none => []
    | some level =>
      slotDeliveries s.active
        ((s.slot (switchSlot sw)).event (switchSlot sw) (switchValue (s.active.inverted sw) level) .line)

/-- One switch input at a commit. -/
theorem inversionChange_eq (before : Tables) (s : State) (sw : Fin 6) : inversionChange before s sw =
    (s.setSlot (switchSlot sw) (inversionSlot before s sw)).post (inversionOut before s sw) := by
  unfold inversionChange inversionSlot inversionOut
  split
  · rw [post_nil, setSlot_self]
  · cases (s.sig.switches.get sw).accepted with
    | none => simp only [post_nil, setSlot_self]
    | some level => rfl

/-- An extraction slot after a commit (R54). -/
def staleTimeSlot (before : Tables) (s : State) (i : Fin 32) : SlotRec :=
  let n := s.active.staleTime i
  let r := s.slot i
  if n = before.staleTime i then r
  else if n = 0 then { r with staleAt := none }
  else if r.fresh = .fresh then
    if r.writtenAt + n ≤ s.now then { r with fresh := .stale, staleAt := none } else { r with staleAt := some (r.writtenAt + n) }
  else r

/-- What an extraction slot delivers at a commit (R54). -/
def staleTimeOut (before : Tables) (s : State) (i : Fin 32) : List Instr :=
  let n := s.active.staleTime i
  let r := s.slot i
  if n ≠ before.staleTime i ∧ n ≠ 0 ∧ r.fresh = .fresh ∧ r.writtenAt + n ≤ s.now then
    slotDeliveries s.active (.stale i r.value)
  else []

/-- One extraction slot at a commit. -/
theorem staleTimeChange_eq (before : Tables) (s : State) (i : Fin 32) : staleTimeChange before s i =
    (s.setSlot i (staleTimeSlot before s i)).post (staleTimeOut before s i) := by
  unfold staleTimeChange staleTimeSlot staleTimeOut
  simp only []
  split
  · rename_i h; rw [if_neg (by simp [h]), post_nil, setSlot_self]
  · split
    · rename_i h; rw [if_neg (by simp [h]), post_nil]
    · split
      · split
        · rw [if_pos (by simp [*])]; rfl
        · rw [if_neg (by simp [*]), post_nil]
      · rw [if_neg (by simp [*]), post_nil, setSlot_self]

/-- A pulse input after a commit (R65). -/
def pulseAfter (before : Tables) (s : State) (pi : Fin 4) : PulseRec :=
  let r := s.sig.pulses.get pi
  if s.active.pulseMode pi ≠ before.pulseMode pi then pulseStart s.active pi s.now
  else
    match s.active.pulseMode pi with
    | .off => r
    | .speed => if s.active.window pi = before.window pi then r else { r with pendingLen := some (s.active.window pi) }
    | .count => if s.active.divisor pi = before.divisor pi then r else { r with count := 0 }

/-- A pulse slot after a commit (R65). -/
def pulseSlotAfter (before : Tables) (s : State) (pi : Fin 4) : SlotRec :=
  if s.active.pulseMode pi ≠ before.pulseMode pi then { } else s.slot (pulseSlot pi)

/-- One pulse input at a commit. -/
theorem pulseChange_eq (before : Tables) (s : State) (pi : Fin 4) : pulseChange before s pi =
    (s.setPulse pi (pulseAfter before s pi)).setSlot (pulseSlot pi) (pulseSlotAfter before s pi) := by
  unfold pulseChange pulseAfter pulseSlotAfter
  have k : ∀ r, (s.setPulse pi r).setSlot (pulseSlot pi) (s.slot (pulseSlot pi)) = s.setPulse pi r :=
    fun r => setSlot_self (s.setPulse pi r) (pulseSlot pi)
  simp only []
  split
  · rfl
  · rw [k]
    cases s.active.pulseMode pi <;> simp only []
    · rw [setPulse_self]
    · split
      · rw [setPulse_self]
      · rfl
    · split
      · rw [setPulse_self]
      · rfl

/-- The pulse inputs of a list at a commit. -/
theorem fold_pulses (before : Tables) : ∀ (l : List (Fin 4)) (s : State), l.Nodup →
    ∃ (S : Vector SlotRec 32) (P : Vector PulseRec 4),
      l.foldl (pulseChange before) s = { s with sig := { s.sig with slots := S, pulses := P } } ∧
      (∀ x ∈ l, S.get (pulseSlot x) = pulseSlotAfter before s x ∧ P.get x = pulseAfter before s x) ∧
      (∀ i, (∀ x ∈ l, pulseSlot x ≠ i) → S.get i = s.slot i) ∧ ∀ x, x ∉ l → P.get x = s.sig.pulses.get x
  | [], s, _ => ⟨s.sig.slots, s.sig.pulses, by simp, by simp, fun _ _ => rfl, fun _ _ => rfl⟩
  | x :: l, s, hn => by
    rw [List.nodup_cons] at hn
    obtain ⟨S, P, h1, h2, h3, h4⟩ := fold_pulses before l (pulseChange before s x) hn.2
    have hne : ∀ y ∈ l, y ≠ x := fun y hy e => hn.1 (e ▸ hy)
    have sl : ∀ i, i ≠ pulseSlot x → (pulseChange before s x).slot i = s.slot i := by
      intro i hi; rw [pulseChange_eq]; exact get_set_ne _ hi _
    have ss : (pulseChange before s x).slot (pulseSlot x) = pulseSlotAfter before s x := by
      rw [pulseChange_eq]; exact get_set_self _ _ _
    have pl : ∀ i, i ≠ x → (pulseChange before s x).sig.pulses.get i = s.sig.pulses.get i := by
      intro i hi; rw [pulseChange_eq]; exact get_set_ne _ hi _
    have ps : (pulseChange before s x).sig.pulses.get x = pulseAfter before s x := by
      rw [pulseChange_eq]; exact get_set_self _ _ _
    have ac : (pulseChange before s x).active = s.active := by rw [pulseChange_eq]; rfl
    have nw : (pulseChange before s x).now = s.now := by rw [pulseChange_eq]; rfl
    refine ⟨S, P, ?_, fun y hy => ?_, fun i hi => ?_, fun y hy => ?_⟩
    · rw [List.foldl_cons, h1, pulseChange_eq]; rfl
    · rcases List.mem_cons.1 hy with rfl | hy
      · exact ⟨by rw [h3 _ (fun z hz e => hne z hz (pulseSlot_inj _ _ e)), ss], by rw [h4 _ hn.1, ps]⟩
      · rw [(h2 y hy).1, (h2 y hy).2]
        unfold pulseSlotAfter pulseAfter
        rw [ac, nw, sl _ (fun e => hne y hy (pulseSlot_inj _ _ e)), pl _ (hne y hy)]
        exact ⟨rfl, rfl⟩
    · rw [h3 i (fun y hy => hi y (List.mem_cons_of_mem _ hy)), sl _ (fun e => hi x (List.mem_cons_self ..) e.symm)]
    · rw [h4 y (fun h => hy (List.mem_cons_of_mem _ h)), pl _ (fun e => hy (e ▸ List.mem_cons_self ..))]

/-- SIG takes a commit (R54, R60, R65). -/
theorem sigCommit_step (before : Tables) (s : State) : CommitAtSig before s (sigCommit before s) := by
  unfold sigCommit
  simp only []
  have ownSwitch : ∀ s y v ds x, x ≠ y →
      inversionSlot before ((State.setSlot s (switchSlot y) v).post ds) x = inversionSlot before s x ∧
      inversionOut before ((State.setSlot s (switchSlot y) v).post ds) x = inversionOut before s x := by
    intro s y v ds x h
    unfold inversionSlot inversionOut
    rw [setSlot_post_slot s (fun e => h (switchSlot_inj _ _ e))]
    exact ⟨rfl, rfl⟩
  have ownStale : ∀ s y v ds x, x ≠ y →
      staleTimeSlot before ((State.setSlot s y v).post ds) x = staleTimeSlot before s x ∧
      staleTimeOut before ((State.setSlot s y v).post ds) x = staleTimeOut before s x := by
    intro s y v ds x h
    unfold staleTimeSlot staleTimeOut
    rw [setSlot_post_slot s h]
    exact ⟨rfl, rfl⟩
  obtain ⟨S1, a1, a2, a3⟩ := fold_slots _ switchSlot switchSlot_inj (inversionSlot before) (inversionOut before)
    (inversionChange_eq before) ownSwitch (List.finRange 6) s (by decide)
  generalize (List.finRange 6).foldl (inversionChange before) s = s1 at *
  obtain ⟨S2, P, b1, b2, b3, -⟩ := fold_pulses before (List.finRange 4) s1 (by decide)
  generalize (List.finRange 4).foldl (pulseChange before) s1 = s2 at *
  obtain ⟨S3, c1, c2, c3⟩ := fold_slots _ (fun i => i) (fun _ _ h => h) (staleTimeSlot before) (staleTimeOut before)
    (staleTimeChange_eq before) ownStale ((List.finRange 32).drop 10) s2 (by decide)
  generalize ((List.finRange 32).drop 10).foldl (staleTimeChange before) s2 = s3 at *
  have up : ∀ i : Fin 32, 10 ≤ i.val ↔ i ∈ (List.finRange 32).drop 10 := by decide
  have low : ∀ i : Fin 32, i.val < 10 → ∀ x ∈ (List.finRange 32).drop 10, x ≠ i := by decide
  have noPulse : ∀ i : Fin 32, 10 ≤ i.val → ∀ x ∈ List.finRange 4, pulseSlot x ≠ i := by decide
  have noSwitch : ∀ i : Fin 32, 10 ≤ i.val → ∀ x ∈ List.finRange 6, switchSlot x ≠ i := by decide
  have apart : ∀ pi : Fin 4, ∀ x ∈ List.finRange 6, switchSlot x ≠ pulseSlot pi := by decide
  have apart' : ∀ sw : Fin 6, ∀ x ∈ List.finRange 4, pulseSlot x ≠ switchSlot sw := by decide
  have of1 : ∀ i, s1.slot i = S1.get i := by intro i; rw [a1]; rfl
  have of2 : ∀ i, s2.slot i = S2.get i := by intro i; rw [b1]; rfl
  have of3 : ∀ i, s3.slot i = S3.get i := by intro i; rw [c1]; rfl
  have same : ∀ i : Fin 32, 10 ≤ i.val → s2.slot i = s.slot i := by
    intro i hi
    rw [of2, b3 i (noPulse i hi), of1, a3 i (noSwitch i hi)]
  have ac1 : s1.active = s.active := by rw [a1]
  have nw1 : s1.now = s.now := by rw [a1]
  have ac : s2.active = s.active := by rw [b1]; exact ac1
  have nw : s2.now = s.now := by rw [b1]; exact nw1
  refine ⟨by rw [c1, b1, a1], by rw [c1, b1, a1], fun i hi => ?_, fun sw => ?_, fun pi => ?_, ?_⟩
  · have e : s3.slot i = staleTimeSlot before s i := by
      rw [of3, c2 i ((up i).1 hi)]
      unfold staleTimeSlot
      rw [ac, nw, same i hi]
    rw [e]
    unfold staleTimeSlot
    simp only []
    refine ⟨fun h => by rw [if_pos h], fun h h' => by rw [if_neg h, if_pos h'],
      fun h h' h2 => by rw [if_neg h, if_neg h', if_neg h2], ?_,
      fun h h' h2 h3 => by rw [if_neg h, if_neg h', if_pos h2, if_neg (by omega)]⟩
    rintro ⟨h, h', h2, h3⟩
    rw [if_neg h, if_neg h', if_pos h2, if_pos h3]
  · have e : s3.slot (switchSlot sw) = inversionSlot before s sw := by
      rw [of3, c3 _ (low _ (by simp [switchSlot]; omega)), of2, b3 _ (apart' sw), of1, a2 sw (by simp)]
    rw [e]
    unfold inversionSlot
    refine ⟨?_, fun level h h' => ?_⟩
    · rintro (h | h)
      · rw [if_pos h]
      · rw [h]; simp
    · have untimed : staleStart s.active (switchSlot sw) s.now = none := by
        unfold staleStart Tables.staleTime
        rw [if_pos (by rw [if_pos (by simp [switchSlot]; omega)])]
      rw [if_neg h, h']
      simp only [SlotRec.written, untimed]
      unfold switchValue
      by_cases hh : level = s.active.inverted sw <;> simp [hh]
  · have e : s3.slot (pulseSlot pi) = pulseSlotAfter before s pi := by
      rw [of3, c3 _ (low _ (by simp [pulseSlot]; omega)), of2, (b2 pi (by simp)).1]
      unfold pulseSlotAfter
      rw [ac1, of1, a3 _ (apart pi)]
    have e2 : s3.sig.pulses.get pi = pulseAfter before s pi := by
      rw [c1]; show s2.sig.pulses.get pi = _
      rw [b1]; show P.get pi = _
      rw [(b2 pi (by simp)).2]
      unfold pulseAfter
      rw [ac1, nw1, a1]
    simp only [e, e2]
    unfold pulseSlotAfter pulseAfter
    refine ⟨fun h => ⟨by rw [if_pos h], fun h' => ?_, fun h' => ?_⟩,
      fun h => ⟨by rw [if_neg (by simp [h])], fun h' h2 => ?_, fun h' h2 => ?_, ?_⟩⟩
    · simp only [if_pos h]; simp [pulseStart, h']
    · simp only [if_pos h]; simp [pulseStart, h']
    · rw [if_neg (by simp [h]), h']; simp [h2]
    · rw [if_neg (by simp [h]), h']; simp [h2]
    · rw [if_neg (by simp [h])]
      rintro (h' | ⟨h', h2⟩ | ⟨h', h2⟩)
      · rw [h']
      · rw [h']; simp [h2]
      · rw [h']; simp [h2]
  · have stale : ((List.finRange 32).drop 10).flatMap (staleTimeOut before s2) =
        ((List.finRange 32).drop 10).flatMap (staleTimeOut before s) := by
      apply List.flatMap_congr
      intro i hi
      unfold staleTimeOut
      rw [ac, nw, same i ((up i).2 hi)]
    rw [c1]; show s2.outbox ++ _ = _
    rw [stale, b1]; show s1.outbox ++ _ = _
    rw [a1]; show (s.outbox ++ (List.finRange 6).flatMap (inversionOut before s)) ++ _ = _
    refine congrArg (fun l => (s.outbox ++ l) ++ _) (List.flatMap_congr fun sw _ => ?_)
    unfold inversionOut
    cases hacc : (s.sig.switches.get sw).accepted with
    | none => rfl
    | some level =>
      have : switchValue (s.active.inverted sw) level = if level = s.active.inverted sw then (0 : Raw) else 1 := by
        unfold switchValue
        by_cases hh : level = s.active.inverted sw <;> simp [hh]
      simp only [this]
      rfl

/-! TNK. -/

/-- The tank records after a commit (R145). -/
theorem tankCommit_tank (before t : Tables) (n : TnkRec) (k : Tank) :
    (Tank.all.foldl (tankCommit before t) n).tank k =
      if t.inService k ≠ before.inService k ∨ t.role (tankRole k) ≠ before.role (tankRole k) then startedTank (t.inService k)
      else keptTank t k (n.tank k) := by
  unfold Tank.all
  simp only [List.foldl, tankCommit]
  cases k <;> (repeat' split) <;> rfl

/-- The rest of TNK's state, as the records are brought up to a commit. -/
theorem tankCommit_rest (before t : Tables) (n : TnkRec) :
    ∃ a b c, Tank.all.foldl (tankCommit before t) n = { n with water := a, foamA := b, foamB := c } := by
  unfold Tank.all
  simp only [List.foldl, tankCommit]
  repeat' split
  all_goals exact ⟨_, _, _, rfl⟩

/-- TNK takes a commit (R133, R135, R145). -/
theorem tnkCommit_step (before : Tables) (s : State) : CommitAtTnk before s (tnkCommit before s) := by
  unfold tnkCommit
  have ht := tankCommit_tank before s.active s.tnk
  obtain ⟨a, b, c, hr⟩ := tankCommit_rest before s.active s.tnk
  generalize Tank.all.foldl (tankCommit before s.active) s.tnk = n0 at *
  obtain ⟨n, hn⟩ : ∃ n : TnkRec, n = { n0 with supply := supplyCommit s } := ⟨_, rfl⟩
  rw [← hn]
  obtain ⟨m, hm⟩ : ∃ m, m = endTaking s.active s.now n := ⟨_, rfl⟩
  have mk : ∀ k, m.tank k =
      if s.active.inService k ≠ before.inService k ∨ s.active.role (tankRole k) ≠ before.role (tankRole k) then
        startedTank (s.active.inService k)
      else keptTank s.active k (s.tnk.tank k) := by
    intro k
    rw [← ht, hm, hn]
    cases k <;> rfl
  have ms : m.supply = supplyCommit s := by rw [hm, hn]; rfl
  have calm : failedRaises s s.tnk m = [] := by
    unfold failedRaises
    simp only [List.map_eq_nil_iff, List.filter_eq_nil_iff]
    intro k _
    simp only [Bool.and_eq_true, bne_iff_ne, ne_eq, beq_iff_eq, not_and]
    intro h1 h2
    apply h1
    rw [mk] at h2
    split at h2
    · simp [startedTank] at h2
    · unfold keptTank at h2
      simp only [] at h2
      split at h2 <;> exact h2
  have e : tnkTake s n false =
      { s with tnk := m, outbox := s.outbox ++ tnkDeliveries s.tnk m,
               outs := { s.outs with tank := m.tankOpen || m.override, fill := m.fillOpen } } := by
    unfold tnkTake
    simp only [← hm, calm]
    simp [State.withTnk, State.post, State.setTnk, State.setOuts]
  rw [e]
  refine ⟨rfl, fun k => ?_, fun h => ?_, fun h => ?_, ?_, ?_, ?_, ?_, fun h1 h2 => ?_, ?_⟩
  · simp only []
    refine ⟨fun h => by rw [mk, if_pos h]; rfl, fun h1 h2 => ?_⟩
    have : m.tank k = keptTank s.active k (s.tnk.tank k) := by rw [mk, if_neg]; simp [h1, h2]
    rw [this]
    generalize s.tnk.tank k = r
    unfold keptTank sourceOf levelOf
    cases s.active.inService k
    · simp
    · simp only [if_true]
      refine ⟨?_, fun _ h => ?_, fun _ h h' => ?_, ?_, ?_⟩
      · trivial
      · simp [h]
      · simp [h, h']; rfl
      · rintro (h | ⟨h, h'⟩)
        · simp at h
        · simp [h, h']
      · trivial
  · show m.supply = _
    rw [ms]; simp [supplyCommit, h]
  · have : m.supply = supplyAt s.active s.tnk.supply (s.roleSlot .intakePressure).value := by
      rw [ms]; simp [supplyCommit, h]
    simp only [this]
    show (s.active.supplyRise ≤ _ → _) ∧ (_ < s.active.supplyRise → _ < s.active.supplyFall → _) ∧
      (_ < s.active.supplyRise → s.active.supplyFall ≤ _ → _)
    unfold supplyAt
    refine ⟨fun h => by rw [if_pos h], fun h h' => by rw [if_neg (by omega), if_pos h'],
      fun h h' => by rw [if_neg (by omega), if_neg (by omega)]⟩
  · show m.tankOpen = _
    rw [hm, hn, hr]; rfl
  · have : m.fillOpen = (s.tnk.fillOpen && fillAllowed m) := by rw [hm, hn, hr]; rfl
    simp only [this]
    simp [fillAllowed, and_assoc, or_assoc]
  · show m.heldMain = _
    rw [hm, hn, hr]; rfl
  · show m.heldRoll = _
    rw [hm, hn, hr]; rfl
  · have a1 : n.heldMain = .disengaged := by rw [hn, hr]; exact h1
    have a2 : n.heldRoll = .disengaged := by rw [hn, hr]; exact h2
    show m.override = false ∧ m.dry = false ∧ m.runDry = none
    rw [hm]
    simp [endTaking, autoClose, overrideOf, dryOf, a1, a2, lineOn, dryTimer]
  · show s.outbox ++ tnkDeliveries s.tnk m = _
    unfold tnkDeliveries
    rw [List.append_assoc]
    congr 1

/-! ILK and CSU. -/

/-- The table of R87, by cases. -/
theorem modeTable_cases (M R P F : Prop) [Decidable M] [Decidable R] [Decidable P] [Decidable F] :
    let m := modeTable (decide M) (decide R) (decide P) (decide F)
    (M → R → m = .conflict) ∧ (M → ¬R → P → m = .pumpStatic) ∧ (M → ¬R → ¬P → m = .conflict) ∧
    (¬M → R → ¬F → m = .pumpRoll) ∧ (¬M → R → F → m = .conflict) ∧ (¬M → ¬R → P → m = .parked) ∧
    (¬M → ¬R → ¬P → m = .road) := by
  refine ⟨?_, ?_, ?_, ?_, ?_, ?_, ?_⟩ <;> intros <;> simp_all [modeTable]

/-- The mode machine's mode is the one its table gives (R87). -/
theorem modeNow_tabled (s : State) (b : Bool) : ModeTabled s b (modeNow (s.setStopped b)) := by
  unfold ModeTabled modeNow
  have active : ∀ c, chanActive (s.setStopped b) c = decide ((s.chan c).state ≠ .disengaged) := by
    intro c
    show ((s.chan c).state != .disengaged) = _
    by_cases h : (s.chan c).state = .disengaged <;> simp [h]
  have parked : ((s.setStopped b).ilk.stopped && brake (s.setStopped b)) =
      decide (b = true ∧ (s.roleSlot .parkBrake).fresh = .fresh ∧ (s.roleSlot .parkBrake).value ≠ 0) := by
    show (b && ((s.roleSlot .parkBrake).fresh == .fresh && (s.roleSlot .parkBrake).value != 0)) = _
    rw [Bool.eq_iff_iff]
    simp
  have fast : overspeed (s.setStopped b) =
      decide ((s.roleSlot .roadSpeed).fresh ≠ .fresh ∨ s.active.param 11 < (s.roleSlot .roadSpeed).value.toNat) := by
    show ((s.roleSlot .roadSpeed).fresh != .fresh ||
      decide (s.active.param 11 < (s.roleSlot .roadSpeed).value.toNat)) = _
    rw [Bool.eq_iff_iff]
    simp
  rw [active, active, parked, fast]
  exact modeTable_cases _ _ _ _

/-- ILK takes a commit (R80, R90). -/
theorem ilkCommit_step (s : State) : CommitAtIlk s (ilkCommit s) := by
  unfold ilkCommit
  obtain ⟨b, hb⟩ : ∃ b, b = latchAtCommit s := ⟨_, rfl⟩
  have tabled := modeNow_tabled s b
  rw [← hb, takeMode_eq]
  generalize modeNow (s.setStopped b) = mode at *
  simp only []
  generalize hu : ({ s.setStopped b with
    ilk := { (s.setStopped b).ilk with mode := mode }
    outbox := (s.setStopped b).outbox ++ modeDeliveries (s.setStopped b).ilk.mode mode } : State) = u
  generalize hm : memMap u (fun c _ => commitResult u c) = m
  have settled := allResults_settles (u.setMem m)
  unfold recompute
  generalize allResults (u.setMem m) = r at *
  generalize ht : ((u.setMem m).setIlk { (u.setMem m).ilk with terms := r }).post (termDeliveries (u.setMem m).ilk.terms r) = t
  have tm : t.ilk.mem = m := by rw [← ht]; rfl
  have tr : t.ilk.terms = r := by rw [← ht]; rfl
  have tb : t.ilk.stopped = b := by rw [← ht, ← hu]; rfl
  have tmode : t.ilk.mode = mode := by rw [← ht, ← hu]; rfl
  refine ⟨?_, ?_, ?_, fun k j c hc => ?_, fun low k => ?_⟩
  · subst ht hu
    simp [State.setStopped, State.setMem, State.setIlk, State.post, ilkDelivers, modeDeliveries, termDeliveries]
    rfl
  · rw [tb, hb]
    unfold latchAtCommit stoppedAt
    show _ = (_ && (decide (_ ≤ s.active.stopSpeed) || (_ && decide (_ ≤ s.active.stopSpeed + s.active.stopHyst))))
    by_cases h : (s.roleSlot .roadSpeed).fresh = .fresh
    · simp only [h, if_true, decide_true, Bool.true_and]
      generalize (s.roleSlot .roadSpeed).value.toNat = v
      by_cases h1 : v ≤ s.active.stopSpeed
      · simp [h1]
      · by_cases h2 : s.active.stopSpeed + s.active.stopHyst < v
        · simp [h1, h2]
        · simp [h1, h2]; omega
    · simp [h]
  · rw [tb, tmode]; exact tabled
  · have held : (t.ilk.mem.get k).get j = commitResult u c := by
      rw [tm, ← hm, memMap_cond u _ (c := c) (by subst hu; exact hc)]
    have um : u.ilk.mode = mode := by subst hu; rfl
    have us : ∀ i, u.slot i = s.slot i := by subst hu; intro i; rfl
    have ud : ∀ c, u.chan c = s.chan c := by subst hu; intro c; cases c <;> rfl
    have ut : u.tnk = s.tnk := by subst hu; rfl
    simp only [held, tmode]
    cases c with
    | signal i rel lo h hi =>
      simp only [commitResult, signalResult, us]
      exact ⟨fun h => by rw [if_neg h], fun h => by rw [if_pos h]; cases rel <;> rfl⟩
    | mode set => simp [commitResult, inputResult, um, Tri.ofBool]
    | drive d set => simp [commitResult, inputResult, ud, Tri.ofBool]
    | band k set => simp [commitResult, inputResult, ut]
    | supply v => simp [commitResult, inputResult, ut, Tri.ofBool]
    | term t => trivial
  · rw [tr, settled (by subst hu; exact low) k]
    exact termResult_of_same _ _ _ _ _ (by rw [← ht]; rfl) (by rw [← ht]; rfl) fun _ _ => rfl

/-- CSU takes a commit (R151, R159). -/
theorem csuCommit_step (s : State) : CommitAtCsu s (csuCommit s) := by
  unfold CommitAtCsu csuCommit csuFinish applyTarget fallDelivery
  refine ⟨?_, fun h => ?_, fun h => ?_, fun h => ?_⟩
  · rintro (h | h) <;> simp [targetOf, idles, h]
  · simp only [if_pos h]
  · have h1 : ¬(targetOf s.active s.csu).toNat < s.csu.applied.toNat := by rw [h]; omega
    simp only [if_neg h1, if_pos h, post_nil]
  · have h1 : ¬(targetOf s.active s.csu).toNat < s.csu.applied.toNat := by omega
    have h2 : targetOf s.active s.csu ≠ s.csu.applied := by intro e; rw [e] at h; omega
    simp only [if_neg h1, if_neg h2, post_nil]
    rfl

end Sys2Proof.Machine
end

