-- ==== Sys2Proof/Laws/Stored.lean ====
section
/-! SUPPORT. The tables as a SAVE writes them: the bits that no field has are 0, every field is as it was, and every check
judges them as before (R197, R201). -/

namespace Sys2Proof.Machine

/-- m has the bits lo to lo + len - 1, as far as an image goes. -/
def hasBits {n : Nat} (m : BitVec n) (lo len : Nat) : Bool :=
  (List.range len).all fun i => m.getLsbD (lo + i) || decide (n ≤ lo + i)

/-- A bit that m has is kept. -/
theorem getLsbD_masked {n : Nat} (img m : BitVec n) (i : Nat) (h : hasBits m i 1 = true) :
    (img &&& m).getLsbD i = img.getLsbD i := by
  simp only [hasBits, List.all_eq_true, List.mem_range] at h
  have := h 0 (by omega)
  rw [Nat.add_zero, Bool.or_eq_true, decide_eq_true_iff] at this
  rw [BitVec.getLsbD_and]
  rcases this with h | h
  · rw [h, Bool.and_true]
  · rw [BitVec.getLsbD_of_ge img i h, Bool.false_and]

/-- Bits that m has are kept, together. -/
theorem extract_masked {n : Nat} (img m : BitVec n) (lo len : Nat) (h : hasBits m lo len = true) :
    (img &&& m).extractLsb' lo len = img.extractLsb' lo len := by
  simp only [hasBits, List.all_eq_true, List.mem_range] at h
  apply BitVec.eq_of_getLsbD_eq
  intro i hi
  simp only [BitVec.getLsbD_extractLsb', hi, decide_true, Bool.true_and]
  apply getLsbD_masked
  simp only [hasBits, List.all_eq_true, List.mem_range]
  intro k hk
  have : k = 0 := by omega
  subst this
  exact h i hi

/-- A field that m has is kept. -/
theorem field_masked {n : Nat} (img m : BitVec n) (lo len : Nat) (h : hasBits m lo len = true) :
    field (img &&& m) lo len = field img lo len := by
  have := congrArg BitVec.toNat (extract_masked img m lo len h)
  simpa [BitVec.extractLsb'_toNat, Nat.shiftRight_eq_div_pow, field] using this

/-- A byte that m has is kept. -/
theorem byteOf_masked {n : Nat} (img m : BitVec n) (b : Nat) (h : hasBits m (8 * b) 8 = true) :
    byteOf (img &&& m) b = byteOf img b := field_masked img m _ _ h

/-- The tag is kept. -/
theorem tagOf_masked (img m : Image20) (h : hasBits m 0 8 = true) : tagOf (img &&& m) = tagOf img := by
  rw [tagOf, tagOf, byteOf_masked img m 0 h]

/-- A record's judgement, its fields judged the same. -/
theorem judged_masked (img m : Image20) (h : hasBits m 0 8 = true) (ok : Bool) : judged (img &&& m) ok = judged img ok := by
  rw [judged, judged, tagOf_masked img m h]

/-- A record is in use as before. -/
theorem inUse_masked (img m : Image20) (h : hasBits m 0 8 = true) : inUse (img &&& m) = inUse img := by
  rw [inUse, inUse, tagOf_masked img m h]

/-- A term index is kept. -/
theorem optTerm_masked (img m : Image20) (lo : Nat) (h1 : hasBits m (lo + 7) 1 = true) (h2 : hasBits m lo 5 = true) :
    optTerm (img &&& m) lo = optTerm img lo := by
  unfold optTerm
  rw [getLsbD_masked _ _ _ h1]
  simp only [field_masked _ _ _ _ h2]

/-- A template index is kept. -/
theorem optTemplate_masked (img m : Image20) (lo : Nat) (h1 : hasBits m (lo + 7) 1 = true) (h2 : hasBits m lo 4 = true) :
    optTemplate (img &&& m) lo = optTemplate img lo := by
  rw [optTemplate, optTemplate, getLsbD_masked _ _ _ h1, field_masked _ _ _ _ h2]

/-! Conditions of a term. -/

/-- What M has of a layout placed at byte pos. -/
theorem hasBits_of_placed (M L : Image20) (pos lo len : Nat)
    (h : ∀ i, (L <<< (8 * pos)).getLsbD i = true → M.getLsbD i = true) (hl : hasBits L lo len = true) (hb : lo + len ≤ 160) :
    hasBits M (8 * pos + lo) len = true := by
  simp only [hasBits, List.all_eq_true, List.mem_range, Bool.or_eq_true, decide_eq_true_iff] at hl ⊢
  intro i hi
  by_cases hw : 160 ≤ 8 * pos + lo + i
  · exact Or.inr hw
  · left
    apply h
    rw [BitVec.getLsbD_shiftLeft]
    have := hl i hi
    rw [show 8 * pos + lo + i - 8 * pos = lo + i by omega]
    have h3 : L.getLsbD (lo + i) = true := by rcases this with h | h <;> [exact h; omega]
    simp [h3]; omega

/-- A field at a place of a byte, from the byte. -/
theorem field_of_byte (img : Image20) (b lo len : Nat) (h : lo + len ≤ 8) :
    byteOf img b / 2 ^ lo % 2 ^ len = field img (8 * b + lo) len := by
  unfold byteOf field
  rw [Nat.pow_add, ← Nat.div_div_eq_div_mul]
  obtain ⟨k, hk⟩ := Nat.exists_eq_add_of_le h
  generalize img.toNat / 2 ^ (8 * b) = x
  apply Nat.eq_of_testBit_eq
  intro i
  simp only [Nat.testBit_mod_two_pow, Nat.testBit_div_two_pow]
  by_cases hi : i < len
  · have : i + lo < 8 := by omega
    simp [hi, this]
  · simp [hi]

/-- A condition of no kind cannot be read. -/
theorem parseCond_none (img : Image20) (pos : Nat) (h : condSize img pos = none) : parseCond img pos = none := by
  unfold condSize at h
  unfold parseCond
  dsimp only
  split at h <;> simp_all

/-- The condition after the one at byte pos stands behind the size of its kind. -/
theorem parseCond_next (img : Image20) (pos : Nat) {c : Cond} {next size : Nat} (hc : parseCond img pos = some (c, next))
    (hs : condSize img pos = some size) : next = pos + size := by
  unfold parseCond at hc
  unfold condSize at hs
  dsimp only at hc
  split at hc
  · rename_i k
    simp only [k] at hs
    unfold parseSignal at hc
    cases hr : relOf (byteOf img (pos + 1)) with
    | none => rw [hr] at hc; simp at hc
    | some r =>
      rw [hr] at hc hs
      simp only [Option.map_some, Option.some.injEq, Prod.mk.injEq] at hc hs
      obtain ⟨-, rfl⟩ := hc
      subst hs
      split <;> rfl
  · rename_i k; simp only [k] at hs; simp_all
  · rename_i k
    simp only [k] at hs
    simp only [Option.map_eq_some_iff, Prod.mk.injEq] at hc
    obtain ⟨_, _, _, rfl⟩ := hc
    simp_all
  · rename_i k
    simp only [k] at hs
    simp only [Option.map_eq_some_iff, Prod.mk.injEq] at hc
    obtain ⟨_, _, _, rfl⟩ := hc
    simp_all
  · rename_i k; simp only [k] at hs; simp_all
  · rename_i k
    simp only [k] at hs
    split at hc
    · simp_all
    · simp at hc
  · simp at hc

/-- The condition at a byte is read as before, where M has the layout of its kind. -/
theorem parseCond_masked (img M : Image20) (pos : Nat)
    (h : ∀ i, (condLayout img pos <<< (8 * pos)).getLsbD i = true → M.getLsbD i = true) :
    parseCond (img &&& M) pos = parseCond img pos := by
  have bits : ∀ lo len, hasBits (condLayout img pos) lo len = true → lo + len ≤ 160 → hasBits M (8 * pos + lo) len = true :=
    fun lo len => hasBits_of_placed M _ pos lo len h
  have part : ∀ lo len, lo + len ≤ 8 → hasBits (condLayout img pos) lo len = true →
      byteOf (img &&& M) pos / 2 ^ lo % 2 ^ len = byteOf img pos / 2 ^ lo % 2 ^ len := fun lo len hl hb => by
    rw [field_of_byte _ _ _ _ hl, field_of_byte _ _ _ _ hl, field_masked _ _ _ _ (bits lo len hb (by omega))]
  have part2 : ∀ len, len ≤ 8 → hasBits (condLayout img pos) 8 len = true →
      byteOf (img &&& M) (pos + 1) % 2 ^ len = byteOf img (pos + 1) % 2 ^ len := fun len hl hb => by
    have a := field_of_byte (img &&& M) (pos + 1) 0 len (by omega)
    have b := field_of_byte img (pos + 1) 0 len (by omega)
    rw [Nat.pow_zero, Nat.div_one] at a b
    rw [a, b]
    apply field_masked
    rw [Nat.mul_add]
    exact bits 8 len hb (by omega)
  have raw : ∀ k, hasBits (condLayout img pos) (8 * k) 16 = true → k ≤ 18 →
      rawOf (img &&& M) (pos + k) = rawOf img (pos + k) := fun k hb hk => by
    apply extract_masked
    rw [Nat.mul_add]
    exact bits (8 * k) 16 hb (by omega)
  have head : hasBits (condLayout img pos) 0 8 = true → byteOf (img &&& M) pos = byteOf img pos := fun hb =>
    byteOf_masked _ _ _ (bits 0 8 hb (by omega))
  have kind : byteOf (img &&& M) pos % 8 = byteOf img pos % 8 := by
    have p := part 0 3 (by omega) (by unfold condLayout; split <;> (try split) <;> decide)
    rwa [Nat.pow_zero, Nat.div_one, Nat.div_one] at p
  unfold parseCond
  dsimp only
  simp only [kind]
  unfold condLayout at part part2 raw head
  split
  · rename_i k
    simp only [k] at part2 raw head
    have hr := part2 8 (by omega) (by split <;> decide)
    have hd := head (by split <;> decide)
    have r1 := raw 2 (by split <;> decide) (by omega)
    have r2 := raw 4 (by split <;> decide) (by omega)
    have lt : ∀ x : Image20, byteOf x (pos + 1) < 2 ^ 8 := fun x => Nat.mod_lt _ (by decide)
    rw [Nat.mod_eq_of_lt (lt _), Nat.mod_eq_of_lt (lt _)] at hr
    have r3 : relOf (byteOf img (pos + 1)) = some .inside → rawOf (img &&& M) (pos + 6) = rawOf img (pos + 6) :=
      fun hi => raw 6 (by rw [if_pos hi]; decide) (by omega)
    unfold parseSignal
    rw [hd, hr, r1, r2]
    cases hrel : relOf (byteOf img (pos + 1)) with
    | none => rfl
    | some r =>
      simp only [Option.map_some]
      by_cases hin : r = .inside
      · simp only [if_pos hin, r3 (by rw [hrel, hin])]
      · simp only [if_neg hin]
  · rename_i k
    simp only [k] at head
    rw [head (by decide)]
  · rename_i k
    simp only [k] at part part2
    rw [show byteOf (img &&& M) pos / 8 % 4 = byteOf img pos / 8 % 4 from part 3 2 (by omega) (by decide),
      show BitVec.ofNat 6 (byteOf (img &&& M) (pos + 1)) = BitVec.ofNat 6 (byteOf img (pos + 1)) from
        BitVec.eq_of_toNat_eq (by rw [BitVec.toNat_ofNat, BitVec.toNat_ofNat]; exact part2 6 (by omega) (by decide))]
  · rename_i k
    simp only [k] at part part2
    rw [show byteOf (img &&& M) pos / 8 % 4 = byteOf img pos / 8 % 4 from part 3 2 (by omega) (by decide),
      show BitVec.ofNat 5 (byteOf (img &&& M) (pos + 1)) = BitVec.ofNat 5 (byteOf img (pos + 1)) from
        BitVec.eq_of_toNat_eq (by rw [BitVec.toNat_ofNat, BitVec.toNat_ofNat]; exact part2 5 (by omega) (by decide))]
  · rename_i k
    simp only [k] at part
    rw [show byteOf (img &&& M) pos / 8 % 2 = byteOf img pos / 8 % 2 from part 3 1 (by omega) (by decide)]
  · rename_i k
    simp only [k] at head
    rw [head (by decide)]
  · rfl

/-- Conditions are read as before, where M has their layout. -/
theorem parseConds_masked (img M : Image20) : ∀ (n pos : Nat),
    (∀ i, (condsLayout img n pos).getLsbD i = true → M.getLsbD i = true) →
      parseConds (img &&& M) n pos = parseConds img n pos
  | 0, _, _ => rfl
  | n + 1, pos, h => by
    rw [parseConds, parseConds]
    rw [condsLayout] at h
    simp only [BitVec.getLsbD_or, Bool.or_eq_true] at h
    rw [parseCond_masked img M pos fun i hi => h i (Or.inl hi)]
    cases hs : condSize img pos with
    | none => rw [parseCond_none img pos hs]
    | some size =>
      simp only [hs] at h
      cases hc : parseCond img pos with
      | none => rfl
      | some x =>
        obtain ⟨c, next⟩ := x
        have hn := parseCond_next img pos hc hs
        subst hn
        simp only []
        rw [parseConds_masked img M n (pos + size) fun i hi => h i (Or.inr hi)]

/-- Tag, combiner and count lie in the layout of an ITT image. -/
theorem ittLayout_head (img : Image20) (lo len : Nat) (h : lo + len ≤ 11) : hasBits (ittLayout img) lo len = true := by
  have : ∀ i < 11, (0x07FF : Image20).getLsbD i = true := by decide
  simp only [hasBits, ittLayout, List.all_eq_true, List.mem_range, Bool.or_eq_true, decide_eq_true_iff, BitVec.getLsbD_or]
  intro i hi
  exact Or.inl (Or.inl (this _ (by omega)))

/-- A term's conditions are read as before from its stored image. -/
theorem ittParse_stored (img : Image20) : ittParse (img &&& ittLayout img) = ittParse img := by
  rw [ittParse, ittParse, field_masked _ _ _ _ (ittLayout_head img 9 2 (by omega))]
  apply parseConds_masked
  intro i hi
  rw [ittLayout, BitVec.getLsbD_or, hi, Bool.or_true]

/-! The tables. -/

variable (t : Tables)

/-- Reading a place of a mapped vector. -/
theorem map_get {α β : Type} {n : Nat} (v : Vector α n) (f : α → β) (i : Fin n) : (v.map f).get i = f (v.get i) := by
  show (v.map f)[i.val] = f v[i.val]
  simp

theorem frt_stored (i : Fin 96) : t.stored.frt.get i = t.frt.get i &&& frtLayout := map_get _ _ _
theorem rtt_stored (i : Fin 16) : t.stored.rtt.get i = t.rtt.get i &&& rttLayout := map_get _ _ _
theorem itt_stored (i : Fin 24) : t.stored.itt.get i = t.itt.get i &&& ittLayout (t.itt.get i) := map_get _ _ _
theorem roles_stored (i : Fin 11) : t.stored.roles.get i = t.roles.get i &&& 0xFF := map_get _ _ _
theorem drives_stored (i : Fin 3) : t.stored.drives.get i = t.drives.get i &&& driveLayout := map_get _ _ _
theorem tanks_stored (i : Fin 3) : t.stored.tanks.get i = t.tanks.get i &&& tankLayout := map_get _ _ _
theorem slots_stored (i : Fin 32) : t.stored.slots.get i = t.slots.get i &&& slotLayout i.val := ofFn_get _ _
theorem params_stored (n : Fin 24) : t.stored.params.get n = t.params.get n &&& paramLayout n.val := ofFn_get _ _

/-- R70 judges the same. -/
theorem ittOk_stored (img : Image20) (i : Nat) (ok : Nat → Bool) : ittOk (img &&& ittLayout img) i ok = ittOk img i ok := by
  rw [ittOk, ittOk, judged_masked _ _ (ittLayout_head img 0 8 (by omega)), ittParse_stored]

/-- The same terms pass. -/
theorem ittPasses_stored : ∀ n, ittPasses t.stored n = ittPasses t n
  | 0 => by simp only [ittPasses]
  | n + 1 => by
    have g : ∀ (j : Nat) (hj : j < 24), t.stored.itt[j] = t.itt[j] &&& ittLayout t.itt[j] := fun j hj => itt_stored t ⟨j, hj⟩
    rw [ittPasses, ittPasses, ittPasses_stored n]
    simp only [g, ittOk_stored, inUse_masked _ _ (ittLayout_head _ 0 8 (by omega))]

/-- The same terms may be named. -/
theorem termNamed_stored (ps : List Bool) (j : Fin 24) : termNamed t.stored ps j = termNamed t ps j := by
  rw [termNamed, termNamed, itt_stored, inUse_masked _ _ (ittLayout_head _ 0 8 (by omega))]

/-- Patches are kept. -/
theorem rttPatches_stored (img : Image20) : rttPatches (img &&& rttLayout) = rttPatches img := by
  simp only [rttPatches, patchAt, field_masked img rttLayout 10 2 (by decide),
    field_masked img rttLayout (64 + 16) 6 (by decide), field_masked img rttLayout (64 + 24) 4 (by decide),
    field_masked img rttLayout 64 16 (by decide), field_masked img rttLayout (96 + 16) 6 (by decide),
    field_masked img rttLayout (96 + 24) 4 (by decide), field_masked img rttLayout 96 16 (by decide),
    field_masked img rttLayout (128 + 16) 6 (by decide), field_masked img rttLayout (128 + 24) 4 (by decide),
    field_masked img rttLayout 128 16 (by decide), getLsbD_masked img rttLayout (64 + 23) (by decide),
    getLsbD_masked img rttLayout (96 + 23) (by decide), getLsbD_masked img rttLayout (128 + 23) (by decide)]

/-- The reissue flag is kept. -/
theorem rttReissue_stored (img : Image20) : rttReissue (img &&& rttLayout) = rttReissue img :=
  getLsbD_masked img rttLayout 8 (by decide)

/-- The identifier replacement is kept. -/
theorem rttReplacement_stored (img : Image20) : rttReplacement (img &&& rttLayout) = rttReplacement img := by
  rw [rttReplacement, rttReplacement, getLsbD_masked img rttLayout 9 (by decide), extract_masked img rttLayout 32 29 (by decide)]

/-- The reissue count. -/
theorem reissueCount_stored : reissueCount t.stored = reissueCount t := by
  unfold reissueCount
  rw [show t.stored.rtt.toList = t.rtt.toList.map fun img => img &&& rttLayout from Vector.toList_map ..,
    List.filter_map, List.length_map]
  congr 1
  apply List.filter_congr
  intro x _
  simp only [Function.comp, inUse_masked x rttLayout (by decide), rttReissue_stored]

/-- MGMT_BASE is kept. -/
theorem mgmtBase_stored : t.stored.mgmtBase = t.mgmtBase := by
  rw [Tables.mgmtBase, Tables.mgmtBase, params_stored]
  exact extract_masked _ _ _ _ (by decide)

/-- R33 for templates judges the same. -/
theorem rttOk_stored (img : Image20) : rttOk t.stored (img &&& rttLayout) = rttOk t img := by
  unfold rttOk
  rw [judged_masked img rttLayout (by decide), rttPatches_stored, rttReplacement_stored, rttReissue_stored,
    reissueCount_stored, mgmtBase_stored]

/-- The same templates may be named. -/
theorem templateNamed_stored (o : Option (Fin 16)) : templateNamed t.stored o = templateNamed t o := by
  cases o with
  | none => rfl
  | some k => simp only [templateNamed, rtt_stored, rttOk_stored, inUse_masked _ rttLayout (by decide)]

/-- Extraction lists are kept. -/
theorem frtExtractions_stored (img : Image20) : frtExtractions (img &&& frtLayout) = frtExtractions img := by
  simp only [frtExtractions, extractionAt, byteOf_masked img frtLayout 14 (by decide),
    field_masked img frtLayout 128 5 (by decide), field_masked img frtLayout (128 + 5) 6 (by decide),
    field_masked img frtLayout (128 + 11) 4 (by decide), field_masked img frtLayout 144 5 (by decide),
    field_masked img frtLayout (144 + 5) 6 (by decide), field_masked img frtLayout (144 + 11) 4 (by decide)]

/-- R33 for entries judges the same. -/
theorem frtOk_stored (ps : List Bool) (img : Image20) : frtOk t.stored ps (img &&& frtLayout) = frtOk t ps img := by
  have a : frtAction (img &&& frtLayout) = frtAction img := by
    rw [frtAction, frtAction, field_masked img frtLayout 10 2 (by decide)]
  have g : gateTermOk t.stored ps (img &&& frtLayout) = gateTermOk t ps img := by
    unfold gateTermOk
    rw [a, show frtTerm (img &&& frtLayout) = frtTerm img from optTerm_masked img frtLayout 16 (by decide) (by decide)]
    simp only [termNamed_stored]
  unfold frtOk
  rw [judged_masked img frtLayout (by decide), field_masked img frtLayout 8 2 (by decide),
    byteOf_masked img frtLayout 14 (by decide), byteOf_masked img frtLayout 3 (by decide), a, g, frtExtractions_stored,
    show frtOpen (img &&& frtLayout) = frtOpen img from optTemplate_masked img frtLayout 96 (by decide) (by decide),
    show frtClosed (img &&& frtLayout) = frtClosed img from optTemplate_masked img frtLayout 104 (by decide) (by decide),
    templateNamed_stored, templateNamed_stored]

/-- R94 judges the same. -/
theorem driveOk_stored (ps : List Bool) (img : Image20) : driveOk t.stored ps (img &&& driveLayout) = driveOk t ps img := by
  unfold driveOk
  rw [judged_masked img driveLayout (by decide), optTerm_masked img driveLayout 8 (by decide) (by decide)]
  simp only [termNamed_stored, field_masked img driveLayout 19 3 (by decide), field_masked img driveLayout 64 16 (by decide),
    field_masked img driveLayout 80 16 (by decide), field_masked img driveLayout 96 16 (by decide),
    field_masked img driveLayout 112 16 (by decide), field_masked img driveLayout 128 16 (by decide),
    getLsbD_masked img driveLayout 15 (by decide), getLsbD_masked img driveLayout 17 (by decide),
    getLsbD_masked img driveLayout 39 (by decide), getLsbD_masked img driveLayout 47 (by decide)]

/-- R53 judges the same. -/
theorem slotOk_stored (i : Nat) (img : Image4) : slotOk i (img &&& slotLayout i) = slotOk i img := by
  unfold slotOk slotLayout
  split
  · rw [byteOf_masked _ _ _ (by decide)]
  · split
    · rw [field_masked _ _ 0 16 (by decide), field_masked _ _ 16 10 (by decide), field_masked _ _ 26 2 (by decide)]
    · rfl

/-- A pulse input's mode and bound tank are kept. -/
theorem pulse_stored (pi : Fin 4) : t.stored.pulseMode pi = t.pulseMode pi ∧ t.stored.boundTank pi = t.boundTank pi := by
  have h : slotLayout (pulseSlot pi).val = 0x3FFFFFFF := by
    unfold slotLayout pulseSlot
    rw [if_neg (by simp), if_pos (by simp; omega)]
  unfold Tables.pulseMode Tables.boundTank
  rw [slots_stored, h, field_masked _ _ 26 2 (by decide), field_masked _ _ 28 2 (by decide)]
  exact ⟨rfl, rfl⟩

/-- A tank record's fields are kept. -/
theorem tankOfImage_stored (img : Image20) : tankOfImage (img &&& tankLayout) = tankOfImage img := by
  unfold tankOfImage
  simp only [field_masked img tankLayout 32 16 (by decide), field_masked img tankLayout 48 16 (by decide),
    field_masked img tankLayout 64 16 (by decide), field_masked img tankLayout 16 16 (by decide),
    field_masked img tankLayout 80 16 (by decide), field_masked img tankLayout 96 16 (by decide),
    field_masked img tankLayout 8 2 (by decide), getLsbD_masked img tankLayout 15 (by decide)]

/-- R121 judges the same. -/
theorem tankOk_stored (k : Tank) : tankOk t.stored k = tankOk t k := by
  have a : ∀ pi : Fin 4, slotOk (pi.val + 6) (t.stored.slots.get (pulseSlot pi)) =
      slotOk (pi.val + 6) (t.slots.get (pulseSlot pi)) := fun pi => by
    rw [slots_stored]; exact slotOk_stored (pi.val + 6) _
  unfold tankOk
  simp only [a, fun pi => (pulse_stored t pi).1, fun pi => (pulse_stored t pi).2, tanks_stored,
    judged_masked _ tankLayout (by decide), tankOfImage_stored]

/-- A parameter's number is kept, but for the bits that R188 does not judge (log 18) and those that fail it. -/
theorem param_stored (n : Fin 24) (h2 : n.val ≠ 2) (h22 : n.val ≠ 22) : t.stored.param n = t.param n := by
  unfold Tables.param
  rw [params_stored, paramLayout, if_neg h2, if_neg h22, BitVec.and_allOnes]


/-- R188 judges the same, where EXCEPTION_MASK has no bit beyond the 18 classes. -/
theorem paramOk_stored (h : t.param 22 < 2 ^ 18) (n : Fin 24) : paramOk t.stored n = paramOk t n := by
  have e : ∀ m : Fin 24, m.val ≠ 2 → m.val ≠ 22 → t.stored.param m = t.param m := param_stored t
  have g : t.stored.param 22 < 2 ^ 18 := by
    unfold Tables.param
    rw [params_stored, BitVec.toNat_and]
    exact Nat.lt_of_le_of_lt Nat.and_le_left h
  by_cases h2 : n.val = 2
  · simp only [paramOk, h2]
  · by_cases h22 : n.val = 22
    · have : n = 22 := Fin.ext h22
      simp only [paramOk, h22]
      rw [this, decide_eq_true g, decide_eq_true h]
    · unfold paramOk
      rw [e n h2 h22, e 12 (by decide) (by decide), e 14 (by decide) (by decide)]

/-- Every record is judged the same. -/
theorem judgements_stored (h : t.param 22 < 2 ^ 18) : t.stored.judgements = t.judgements := by
  have role : ∀ i, roleOk (t.stored.roles.get i) = roleOk (t.roles.get i) := fun i => by
    rw [roleOk, roleOk, roles_stored, byteOf_masked _ _ 0 (by decide)]
  have slot : ∀ i : Fin 32, slotOk i.val (t.stored.slots.get i) = slotOk i.val (t.slots.get i) := fun i => by
    rw [slots_stored, slotOk_stored]
  unfold Tables.judgements
  simp only [ittPasses_stored, frt_stored, frtOk_stored, rtt_stored, rttOk_stored, role, slot, drives_stored,
    driveOk_stored, tankOk_stored, paramOk_stored t h]

/-- A record's tag is judged the same. -/
theorem notRejected_masked (img m : Image20) (h : hasBits m 0 8 = true) : notRejected (img &&& m) = notRejected img := by
  rw [notRejected, notRejected, tagOf_masked img m h]

/-- The stored tables pass every check where the tables do. -/
theorem sound_stored (h : t.param 22 < 2 ^ 18) : t.stored.sound = t.sound := by
  have r : ∀ {n : Nat} (v : Vector Image20 n) (f : Image20 → Image20), (∀ x, notRejected (f x) = notRejected x) →
      (v.map f).toList.all notRejected = v.toList.all notRejected := fun v f hf => by
    rw [Vector.toList_map, List.all_map]
    congr 1
    funext x
    exact hf x
  unfold Tables.sound Tables.failing
  rw [judgements_stored t h]
  unfold Tables.noRejected Tables.stored
  rw [r t.frt _ fun x => notRejected_masked x _ (by decide), r t.rtt _ fun x => notRejected_masked x _ (by decide),
    r t.itt _ fun x => notRejected_masked x _ (ittLayout_head x 0 8 (by omega)),
    r t.drives _ fun x => notRejected_masked x _ (by decide), r t.tanks _ fun x => notRejected_masked x _ (by decide)]

/-- An image that the part writes passes the image check exactly where its tables do (R197, R199). -/
theorem good_holding (u : Tables) : (StoredImage.holding u).good = u.sound := by
  unfold StoredImage.good StoredImage.body StoredImage.holding
  simp

end Sys2Proof.Machine
end

