-- ==== Sys2Proof/WellFormed.lean ====
section
/-! DEFINITION. Well-formed commands: the operands that an event of the part can carry. -/

namespace Sys2Proof

/-- A frame carries 0 to 8 data bytes, and a standard identifier has 11 bits (R1). -/
def Frame.wf (f : Frame) : Bool := f.data.length ≤ 8 && (f.ext || f.ident.toNat < 2048)

/-- Request codes that name a request (11 section 11.1). -/
def requestCodeDefined (code : Byte) : Bool := 1 ≤ code.toNat && code.toNat ≤ 16

/-- A frame that R179 answers BAD_REQUEST for its form: short, or of 8 bytes with an undefined code. -/
def badRequestData (data : List Byte) : Bool :=
  data.length < 8 || (data.length == 8 && !requestCodeDefined (data.headD 0))

/-- Slots 10 to 31 are written by extractions, the others by their lines (R45); only extraction slots go stale. -/
def SlotEvent.wf : SlotEvent → Bool
  | .written i _ before fb w =>
    (match w with
      | .none => false
      | .line => i.val < 10
      | .entry _ => 10 ≤ i.val)
    && (fb != .never || before == 0)
  | .stale i _ => 10 ≤ i.val

/-- The fields of a raise are those its class gives (the table of R162). -/
def Raise.wf (r : Raise) : Bool :=
  let port := r.port.isSome
  let frame := r.frame.isSome
  let entry := r.entry.isSome
  let term := r.term.isSome
  let chan := r.channel.isSome
  let tank := r.tank.isSome
  let reason := r.reason
  (match r.frame with
    | some f => f.wf
    | none => true) &&
  match r.cls with
  | .storeFault | .modeConflict | .supervisionLost =>
    !port && !frame && !entry && !term && !chan && !tank && reason == none
  | .dryRun | .fillRefused =>
    !port && !frame && !entry && !term && !chan && r.tank == some .water && reason == none
  | .senderFailed => !port && !frame && !entry && !term && !chan && tank && reason == none
  | .engageFailed | .engageLost | .releaseFailed =>
    !port && !frame && !entry && !term && chan && !tank && reason == none
  | .portOff | .portWarn => port && !frame && !entry && !term && !chan && !tank && reason == none
  | .lockout | .staleGate => port && frame && entry && term && !chan && !tank && reason == none
  | .permitLost => !port && !frame && !entry && term && chan && !tank && reason == none
  | .engageRefused =>
    !port && !frame && !entry && chan && !tank &&
    (match reason with
      | some .notPermitted => true
      | some .exclusive | some .conflict | some .busy => !term
      | _ => false)
  | .holdDiscard =>
    port && frame && entry && term && !chan && !tank &&
    (reason == some .overflow || reason == some .expired || reason == some .purged)
  | .txDiscard =>
    port && frame && !term && !chan && !tank &&
    (reason == some .portOff || reason == some .full || reason == some .stale)
  | .fieldRange => port && frame && entry && !term && !chan && !tank && reason == none

/-- A request to queue a forwarded frame: a frame, bound for the port it did not arrive on (R28). -/
def ForwardRequest.wf (p : Port) (q : ForwardRequest) : Bool := q.frame.wf && q.arrival == p.other

/-- Well-formedness of a command. Every command is taken whatever its operands; these are the ones an event of the
part can carry. -/
def Instr.wf : Instr → Bool
  | .remoteFrame _ ext ident => ext || ident.toNat < 2048
  | .startFrameDiscard _ f => f.wf
  | .standardFrame _ _ data => data.length ≤ 8
  | .frameHandledByFre _ _ data => data.length ≤ 8
  | .badRequestFrame _ data => badRequestData data
  | .readStatus _ | .readSignal _ | .readActive _ | .readShadow _ | .writeShadow _ | .revertShadow _ => true
  | .commit _ | .save _ | .readEvent _ | .readCapture _ | .clearExceptions _ | .clearCapture _ => true
  | .driveCommand _ | .valveCommand _ | .readResetCause _ | .resetPart _ => true
  | .queueForwardedFrame p q => q.wf p
  | .queuePartOriginatedFrame _ f => f.wf && f.ext && f.data.length == 8
  | .transmitAttemptEnd _ _ => true
  | .ageDeadlineExpiry _ i => i < 15
  | .recoveryTimerExpiry _ => true
  | .termRiseAtFre _ | .termFallAtFre _ | .holdDeadlineExpiry _ | .ceilingFall => true
  | .staleTimerExpiry i => 10 ≤ i.val
  | .switchLevelChange _ _ | .debounceExpiry _ | .pulseEdge _ | .windowExpiry _ | .volumeUnit _ => true
  | .ilkSlotEvent e | .drvSlotEvent e | .tnkSlotEvent e => e.wf
  | .ilkDriveStateChange _ | .ilkBandChange _ | .ilkSupplyChange => true
  | .permitTermFall _ | .permitTermRise _ | .supervisionLapse => true
  | .runDryRequest c => c != .aux
  | .settleExpiry _ | .verifyExpiry _ | .releaseExpiry _ => true
  | .tnkDriveStateChange _ _ | .runDryExpiry | .csuInputDelivery _ | .heartbeat => true
  | .supervisionTimerExpiry | .rampExpiry => true
  | .exceptionRaise r => r.wf
  | .powerOn | .powerFail | .resetLine | .resetLineRelease => true
  | .storeReadCompletion _ | .storeReadTimeout | .saveCompletion _ _ => true

end Sys2Proof
end

