-- ==== Sys2Proof/Tests/Slice0.lean ====
section
/-! SUPPORT. Tests: well-formedness refuses what it should, one step of each family on a small state, and for every statement
with hypotheses a state and operands that meet them. -/

namespace Sys2Proof.Tests

open Sys2Proof Sys2Proof.Machine Sys2Proof.Safety

set_option Elab.async false

/-! States and operands. -/

/-- The part in RUN, by the fallback configuration. -/
def running : State := { State.reset with sys := { State.reset.sys with phase := .run } }

/-- RUN with the service switch on (R61). -/
def serviced : State := running.setSlot 5 { value := 1, fresh := .fresh }

/-- RUN, SERVICE, mode PARKED. -/
def parked : State := serviced.setIlk { serviced.ilk with mode := .parked }

/-- RUN, SERVICE, the fallback state set. -/
def fallen : State := serviced.setSys { serviced.sys with fallback := true }

/-- RUN, SERVICE, a SAVE in flight. -/
def saving : State := serviced.setMgt { serviced.mgt with save := some { port := .bp, tag := 7, since := 0 } }

/-- A request on BP, begun after reception began. -/
def req (b2 b3 b4 : Byte) : Request := { port := .bp, begun := 1, b2 := b2, b3 := b3, b4 := b4 }

/-- The arrival of a frame on a port, begun at this time, the blocks taking its events in this order. -/
def frameOn (p : Port) (begun : Nat) (order : List (List Block) := []) : Arrival := { port := p, begun := begun, order := order }

/-- Active tables with this image as FRT entry 0. -/
def withEntry (img : Image20) (s : State) : State := s.setActive { s.active with frt := s.active.frt.set 0 img }

/-- Active tables with this image as template 0. -/
def withTemplate (img : Image20) (s : State) : State := s.setActive { s.active with rtt := s.active.rtt.set 0 img }

/-- Active tables with this image as term 0. -/
def withTermImage (img : Image20) (s : State) : State := s.setActive { s.active with itt := s.active.itt.set 0 img }

/-- Active tables with role r bound to slot b. -/
def withRole (r : Role) (b : Image4) (s : State) : State :=
  s.setActive { s.active with roles := s.active.roles.set r.index.val b }

/-- Active tables with this parameter. -/
def withParam (n : Fin 24) (v : Image4) (s : State) : State :=
  s.setActive { s.active with params := s.active.params.set n.val v }

/-- Active tables with this record for MAIN. -/
def withDrive (img : Image20) (s : State) : State := s.setActive { s.active with drives := s.active.drives.set 0 img }

/-- Active tables with this record for WATER. -/
def withTank (img : Image20) (s : State) : State := s.setActive { s.active with tanks := s.active.tanks.set 0 img }

/-- Term 0 with this result. -/
def withResult (v : Tri) (s : State) : State := s.setIlk { s.ilk with terms := s.ilk.terms.set 0 v }

/-- A channel in this state with this timer. -/
def withChannel (c : Channel) (st : DriveState) (t : Option (DriveTimer × Nat)) (s : State) : State :=
  s.setChan c { state := st, timer := t }

/-- FRT images with value and mask 0, so that they claim every frame: PASS, DROP, GATE on T0, HOLD on T0 for 10 ms. -/
def passImg : Image20 := 0x0201
def dropImg : Image20 := 0x0601
def gateImg : Image20 := 0x800A01
def holdImg : Image20 := 0x01800E01

/-- An FRT image, PASS, with one extraction of 8 bits from bit 0 to slot 10. -/
def extractImg : Image20 := 0x0201 ||| (1 <<< 112) ||| (0x380A <<< 128)

/-- A template with one SET patch: 5 to bits 0 to 3. -/
def setImg : Image20 := 0x0401 ||| (0x03000005 <<< 64)

/-- A template with the reissue flag and one CLAMP patch on bits 0 to 15. -/
def clampImg : Image20 := 0x0501 ||| (0x0F800000 <<< 64)

/-- Term 0: slot 10 is LT 100. -/
def ltImg : Image20 := 0x0000006400500001

/-- Term 0: mode PARKED, MAIN ENGAGED, WATER NORMAL, supply HYDRANT. -/
def inputImg : Image20 := 0x0C04030802110601

/-- A drive record: permit term T0, confirm switch 0 at level 1, settle 50, verify 100, release 50. -/
def driveImg : Image20 :=
  0x068001 ||| (0xFFFF <<< 80) ||| (50 <<< 96) ||| (100 <<< 112) ||| (50 <<< 128)

/-- A tank record: LOW at 100, NORMAL at 200, FULL at 300, hysteresis 10, capacity 400, limit 20, no flow input. -/
def tankImg : Image20 :=
  1 ||| (10 <<< 16) ||| (100 <<< 32) ||| (200 <<< 48) ||| (300 <<< 64) ||| (400 <<< 80) ||| (20 <<< 96)

/-- WATER in service, its level in slot 10. -/
def tanked : State := withTank tankImg (withRole .levelWater 10 running)

/-- START with a good image in the store: WATER in service, T0 reads mode ROAD, T1 reads T0. -/
def stored : State :=
  let a := tanked.active
  State.reset.setSys { State.reset.sys with
    store := StoredImage.ofTables { a with itt := (a.itt.set 0 0x090001).set 1 0x050001 } }

/-- A frame with no data. -/
def short : Frame := { ext := true, ident := 5, data := [] }

/-- A waiting forwarded frame with the coalescing mark. -/
def waitingFrame : QueuedFrame := { frame := short, kind := .forwarded .cp none 50, mark := true }

/-- A port with a part-originated frame in flight and n forwarded frames waiting. -/
def busyPort (n : Nat) : PortRec :=
  { waiting := List.replicate n waitingFrame, inFlight := some { frame := short, kind := .part, mark := false } }

/-- A port with this count and this frame in flight. -/
def attemptPort (count : Nat) (q : QueuedFrame) : PortRec := { state := countState count, count := count, inFlight := some q }

/-- A port in OFF. -/
def offPort : PortRec := { state := .off, count := 256, recovery := some 500 }

/-- A held frame with this identifier from entry e, held on T0. -/
def held (id : Ident) (e : Fin 96) : HeldFrame :=
  { frame := { short with ident := id }, arrival := .cp, entry := e, term := 0, deadline := 10 }

/-- The state after a command. -/
def after (c : Instr) (s : State) : State :=
  match exec c s with
  | .next t => t
  | _ => s

/-- The data bytes of the frame in flight on a port. -/
def sent (s : State) (p : Port) : List Byte := ((s.port p).inFlight.map fun q => q.frame.data).getD []

/-! Well-formedness refuses. -/

theorem test_wf_frame_too_long : (Instr.standardFrame (frameOn .cp 1) 0 (List.replicate 9 0)).wf = false := by decide
theorem test_wf_standard_identifier : (Instr.startFrameDiscard .cp { ext := false, ident := 2048, data := [] }).wf = false := by
  decide
theorem test_wf_remote_identifier : (Instr.remoteFrame .cp false 2048).wf = false := by decide
theorem test_wf_fre_frame_too_long : (Instr.frameHandledByFre (frameOn .cp 1) 0 (List.replicate 9 0)).wf = false := by decide
theorem test_wf_bad_request_is_good : (Instr.badRequestFrame (frameOn .cp 1) [1, 0, 0, 0, 0, 0, 0, 0]).wf = false := by decide
theorem test_wf_forward_to_arrival :
    (Instr.queueForwardedFrame .cp { frame := short, arrival := .cp, entry := none, mark := false }).wf = false := by decide
theorem test_wf_part_frame_length : (Instr.queuePartOriginatedFrame .cp short).wf = false := by decide
theorem test_wf_age_index : (Instr.ageDeadlineExpiry .cp 15).wf = false := by decide
theorem test_wf_stale_line_slot : (Instr.staleTimerExpiry 9).wf = false := by decide
theorem test_wf_line_writes_extraction_slot : (Instr.ilkSlotEvent (.written 10 0 0 .fresh .line)).wf = false := by decide
theorem test_wf_entry_writes_line_slot : (Instr.drvSlotEvent (.written 9 0 0 .fresh (.entry 0))).wf = false := by decide
theorem test_wf_never_with_value : (Instr.tnkSlotEvent (.written 0 0 1 .never .line)).wf = false := by decide
theorem test_wf_stale_line_event : (Instr.tnkSlotEvent (.stale 9 0)).wf = false := by decide
theorem test_wf_run_dry_aux : (Instr.runDryRequest .aux).wf = false := by decide
theorem test_wf_raise_plain : (Instr.exceptionRaise { cls := .storeFault, mode := .road, port := some .cp }).wf = false := by
  decide
theorem test_wf_raise_water : (Instr.exceptionRaise { cls := .dryRun, mode := .road, tank := some .foamA }).wf = false := by
  decide
theorem test_wf_raise_tank : (Instr.exceptionRaise { cls := .senderFailed, mode := .road }).wf = false := by decide
theorem test_wf_raise_channel : (Instr.exceptionRaise { cls := .engageLost, mode := .road }).wf = false := by decide
theorem test_wf_raise_port : (Instr.exceptionRaise { cls := .portOff, mode := .road }).wf = false := by decide
theorem test_wf_raise_gate : (Instr.exceptionRaise { cls := .lockout, mode := .road, port := some .cp }).wf = false := by decide
theorem test_wf_raise_permit : (Instr.exceptionRaise { cls := .permitLost, mode := .road, channel := some .main }).wf = false := by
  decide
theorem test_wf_raise_refused :
    (Instr.exceptionRaise
      { cls := .engageRefused, mode := .road, channel := some .main, term := some 0, reason := some .busy }).wf = false := by decide
theorem test_wf_raise_hold :
    (Instr.exceptionRaise
      { cls := .holdDiscard, mode := .road, port := some .cp, frame := some short, entry := some 0, term := some 0,
        reason := some .full }).wf = false := by decide
theorem test_wf_raise_tx :
    (Instr.exceptionRaise
      { cls := .txDiscard, mode := .road, port := some .cp, frame := some short, reason := some .busy }).wf = false := by decide
theorem test_wf_raise_field :
    (Instr.exceptionRaise { cls := .fieldRange, mode := .road, port := some .cp, frame := some short }).wf = false := by decide
theorem test_wf_accepts :
    (Instr.standardFrame (frameOn .cp 1) 0 (List.replicate 8 0)).wf = true ∧ (Instr.ageDeadlineExpiry .cp 14).wf = true ∧
    (Instr.badRequestFrame (frameOn .cp 1) [17, 0, 0, 0, 0, 0, 0, 0]).wf = true ∧ (Instr.staleTimerExpiry 10).wf = true := by decide

/-! Words and the stored image. -/

theorem test_no_word_spells_a_command : decodeTableWord 32 0 = none := rfl

/-- The check value of the CRC of R197 over the bytes of "123456789". -/
theorem test_crc_check_value : crc16 [0x31, 0x32, 0x33, 0x34, 0x35, 0x36, 0x37, 0x38, 0x39] = 0x29B1#16 := by decide +kernel

theorem test_blank_store_fails : StoredImage.blank.good = false := by decide +kernel
/-- The store gets 0 where an FRT image has no field (R201): byte 15. -/
theorem test_stored_image_zeroes_unassigned_bits :
    (StoredImage.ofTables (withEntry (passImg ||| (0xFF <<< 120)) running).active).tables.frt.get 0 = passImg := by
  decide +kernel

theorem test_stored_condition_of_no_channel :
    (StoredImage.ofTables (withTermImage 0xFFFFFA0000 running).active).tables.itt.get 0 = 0x3F1A0000 := by decide +kernel
theorem test_stored_condition_of_no_kind :
    (StoredImage.ofTables (withTermImage 0xFFFFFE0000 running).active).tables.itt.get 0 = 0x060000 := by decide +kernel
theorem test_fallback_sound : Tables.fallback.sound = true := by decide +kernel

/-! One step of each family. -/

theorem test_start_up_falls_back :
    let t := after .storeReadTimeout State.reset
    t.sys.phase = .run ∧ t.sys.fallback = true ∧ t.now = 40 ∧ t.sys.causes = { powerOn := true, startFallback := true } ∧
    t.outbox = [.exceptionRaise { cls := .storeFault, mode := .road }] := by decide +kernel
theorem test_run_begins_on_a_good_image :
    let t := endStart stored true
    t.sys.phase = .run ∧ t.sys.fallback = false ∧ t.sys.causes = { powerOn := true } ∧ t.tnk.water.source = .sender ∧
    t.tnk.foamA.source = .none ∧ t.ilk.terms.get 0 = .tt ∧ t.ilk.terms.get 2 = .ff ∧
    t.outbox = [.termRiseAtFre 0, .permitTermRise 0, .termRiseAtFre 1, .permitTermRise 1] := by decide +kernel
theorem test_nothing_acts_in_start : after (.pulseEdge 0) State.reset = State.reset := rfl
theorem test_reset_line_keeps_causes :
    (after .resetLine running).sys.causes = { powerOn := true, resetLine := true } ∧
    (after .resetLine running).sys.phase = .reset := by decide +kernel
theorem test_read_status_signal_data :
    sent (after (.readSignal (req 5 0 0)) serviced) .bp = [2, 0, 0, 1, 0, 0, 0, 127] := by decide +kernel
theorem test_bad_request_answer : sent (after (.badRequestFrame (frameOn .bp 1) [9, 4]) running) .bp = [9, 4, 1, 0, 0, 0, 0, 0] := by
  decide +kernel
theorem test_request_on_other_port_is_a_frame : after (.readStatus { port := .cp, begun := 1 }) running = running := by
  decide +kernel
theorem test_frame_begun_before_recovery_is_not_received :
    let s := after (.recoveryTimerExpiry .cp) (withEntry passImg (running.setPort .cp offPort))
    s.cp.since = 500 ∧ after (.frameHandledByFre (frameOn .cp 500) 9 [1, 2]) s = s ∧
    sent (after (.frameHandledByFre (frameOn .cp 501) 9 [1, 2]) s) .bp = [1, 2] := by decide +kernel
theorem test_read_active_parameter :
    sent (after (.readActive (req 0x70 14 0)) running) .bp = [3, 0, 0, 0xBC, 2, 0, 0, 0] := by decide +kernel
theorem test_write_shadow :
    (after (.writeShadow (req 0x70 14 44)) serviced).mgt.modified = true ∧
    (after (.writeShadow (req 0x70 14 44)) serviced).mgt.shadow.param 14 = 44 := by decide +kernel
theorem test_failed_commit_is_marked :
    let s := fallen.setMgt { fallen.mgt with shadow := { Tables.fallback with roles := Tables.fallback.roles.set 2 40 } }
    sent (after (.commit (req 0 0 0)) s) .bp = [7, 0, 6, 3, 2, 1, 0, 0] ∧
    (after (.commit (req 0 0 0)) s).mgt.mark 3 2 = true := by decide +kernel
/-- The mode change of step 6 and the supply change of step 5 are taken before or after the steps that follow (R192). A waiting
rise releases no held frame on the way to the purge (R20, R40), and TNK takes the open request that an inversion makes at step 3
only after its own step, whose bands ILK's step reads (R145, R192). -/
theorem test_commit_takings_before_or_after_the_next_step :
    let mode := parked.setCsu { parked.csu with mode := .parked }
    let shadow := { Tables.fallback with slots := Tables.fallback.slots.set 0 276, roles := Tables.fallback.roles.set 9 0 }
    let open0 := (parked.setSwitch 0 { accepted := some false }).setSlot 0 { value := 0, fresh := .fresh }
    let waits := ((withResult .tt open0).setHold [held 8 0]).post [.termRiseAtFre 0]
    let full := (waits.setTnk { waits.tnk with supply := .hydrant }).setMgt { waits.mgt with shadow := shadow }
    let t := fun s order => after (.commit { req 0 0 0 with order := order }) s
    let tooEarly := t full [[.fre], [.fre], [.tnk, .fre], [.tnk, .drv]]
    (t mode []).csu.mode = .parked ∧ (t mode []).outbox = [.csuInputDelivery (.mode .road)] ∧
    (t mode [[], [], [], [], [.csu]]).csu.mode = .road ∧ (t mode [[], [], [], [], [.csu]]).outbox = [] ∧
    sent (t mode [[], [], [], [], [.csu]]) .bp = [7, 0, 0, 0, 0, 0, 0, 0] ∧
    tooEarly = t full [] ∧ tooEarly.fre.hold = [] ∧ tooEarly.exc.pend.getLsbD 14 = true ∧ tooEarly.tnk.tankOpen = false ∧
    (t full [[], [], [], [], [.tnk]]).tnk.tankOpen = true ∧ .ilkSupplyChange ∈ tooEarly.outbox ∧
    .ilkSupplyChange ∉ (t full [[], [], [], [.ilk]]).outbox ∧ (t full [[], [], [], [.csu]]).csu.supply = .tank := by
  decide +kernel
theorem test_pass_entry_forwards :
    sent (after (.frameHandledByFre (frameOn .cp 1) 9 [1, 2]) (withEntry passImg running)) .bp = [1, 2] := by decide +kernel
theorem test_set_patch :
    applyPatch 0 [0xFF, 0x00] { clamp := false, start := 4, len := 8, const := 0x12 } = [0x2F, 0x01] := by decide
theorem test_extraction_writes_slot :
    ((after (.frameHandledByFre (frameOn .cp 1) 9 [200]) (withEntry extractImg running)).slot 10).value = 200 := by decide +kernel
/-- A write of a REQ slot that ends the permit, R99: DRV before ILK accepts, and the fall finds MAIN in SHIFTING; ILK before DRV
refuses; with no order given DRV is left to a later command. -/
theorem test_either_block_first_at_a_request_slot :
    let s := withResult .tt (withTermImage ltImg (withDrive driveImg (withRole .reqMain 10 (withEntry extractImg running))))
    let t := fun order => after (.frameHandledByFre (frameOn .cp 1 order) 9 [200]) s
    (t [[.drv]]).drv.main.state = .shifting ∧ (t [[.drv]]).ilk.terms.get 0 = .ff ∧
    .permitTermFall 0 ∈ (t [[.drv]]).outbox ∧ (t [[.drv, .ilk, .drv, .drv]]).drv.main.outcome = some (.aborted .permitLost) ∧
    (t [[.ilk, .drv]]).drv.main.outcome = some (.refused .notPermitted) ∧
    (t []).drv.main.outcome = none ∧ (receiver ((t []).outbox.headD .heartbeat)) = some .drv := by decide +kernel

/-- A write that turns PUMP_STATIC into CONFLICT: the frame is clamped to the ceiling from before or from after CSU's taking. -/
theorem test_frame_is_clamped_before_or_after_the_mode_change :
    let s0 := withTemplate clampImg (withRole .parkBrake 10 (withEntry (extractImg ||| (0x80 <<< 96)) running))
    let s1 := withChannel .main .engaged none (s0.setSlot 10 { value := 1, fresh := .fresh })
    let s := (s1.setIlk { s1.ilk with mode := .pumpStatic, stopped := true }).setCsu
      { s1.csu with mode := .pumpStatic, main := .engaged, supply := .hydrant, target := 900, applied := 900 }
    let t := fun order => after (.frameHandledByFre (frameOn .cp 1 order) 9 [0, 4]) s
    (t []).csu.applied = 900 ∧ sent (t []) .bp = [0x84, 3] ∧
    (t [[.ilk, .csu]]).csu.applied = 700 ∧ sent (t [[.ilk, .csu]]) .bp = [0xBC, 2] := by decide +kernel
theorem test_ranking_standard_first :
    rankKey { ext := false, ident := 3, data := [] } < rankKey { ext := true, ident := 3 * 2 ^ 18, data := [] } ∧
    rankKey { ext := true, ident := 3 * 2 ^ 18 - 1, data := [] } < rankKey { ext := false, ident := 3, data := [] } := by decide
theorem test_switch_is_accepted :
    let s := after (.switchLevelChange 5 true) running
    (s.sig.switches.get 5).timer = some 20 ∧ ((after (.debounceExpiry 5) s).slot 5).value = 1 ∧
    (after (.debounceExpiry 5) s).now = 20 := by decide +kernel
theorem test_condition_taken :
    ((after (.ilkSlotEvent (.written 10 99 0 .never (.entry 0))) (withTermImage ltImg running)).ilk.terms.get 0) = .tt ∧
    ((after (.ilkSlotEvent (.written 10 100 0 .never (.entry 0))) (withTermImage ltImg running)).ilk.terms.get 0) = .ff := by
  decide +kernel
theorem test_unreached_condition_keeps_its_result :
    let s := withChannel .main .engaged none (withTermImage inputImg running)
    let m := fun t : State => (t.ilk.mem.get 0).toList
    m s = [.unknown, .unknown, .unknown, .unknown] ∧ m (after .ilkSupplyChange s) = [.unknown, .unknown, .unknown, .ff] ∧
    m (after (.ilkDriveStateChange .main) s) = [.ff, .tt, .unknown, .unknown] := by decide +kernel
theorem test_engage_refused_without_permit :
    sent (after (.driveCommand (req 2 0 0)) running) .bp = [13, 0, 8, 1, 0, 2, 0, 0] := by decide +kernel
theorem test_engage_accepted :
    let s := after (.driveCommand (req 0 0 0)) (withResult .tt (withDrive driveImg running))
    s.drv.main.state = .shifting ∧ s.outs.main = true ∧ s.drv.main.timer = some (.settle, 50) := by decide +kernel
theorem test_level_sample :
    (after (.tnkSlotEvent (.written 10 250 0 .never (.entry 0))) tanked).tnk.water.band = .normal := by decide +kernel
theorem test_tank_valve : (after (.valveCommand (req 0 0 0)) running).outs.tank = true := by decide +kernel
theorem test_closing_taking_refuses_open_request :
    let n : TnkRec :=
      { running.tnk with
        supply := .hydrant, fillOpen := true, water := { source := .sender, band := .normal, level := some 250 } }
    let s := after (.tnkSlotEvent (.written 10 350 0 .fresh (.entry 0))) (withRole .reqFill 10 (tanked.setTnk n))
    s.tnk.fillOpen = false ∧ s.tnk.water.band = .full ∧
    Instr.exceptionRaise { cls := .fillRefused, mode := .road, tank := some .water } ∈ s.outbox := by decide +kernel
theorem test_heartbeat_arms :
    (after .heartbeat (running.setCsu { running.csu with mode := .parked })).csu.supTimer = some 500 := by decide +kernel
theorem test_raise_turns_alarm_on :
    let s := after (.exceptionRaise { cls := .dryRun, mode := .road, tank := some .water }) running
    s.outs.alarm = true ∧ s.exc.pend = 8 ∧ sent s .bp = [4, 1, 0, 1, 4, 0, 0, 0] := by decide +kernel
theorem test_save_completes :
    (after (.saveCompletion true true) saving).sys.store.format = 0x2640 ∧
    sent (after (.saveCompletion true true) saving) .bp = [8, 7, 0, 0, 0, 0, 0, 0] := by decide +kernel

/-! For every statement with hypotheses, a state and operands that meet them, clause by clause. -/

theorem witness_StepWithEmptyQueue :
    running.pending = [] ∧ (running.post [.heartbeat]).outbox = [.heartbeat] ∧ running.outbox = [] := by decide +kernel

theorem witness_CommandsWithoutEffect :
    State.reset.sys.phase ≠ .run ∧ actsOutsideRun .heartbeat = false ∧
    ((running.setPort .cp offPort).port (frameOn .cp 1).port).state = .off ∧
    (frameOn .cp 0).begun ≤ (running.port .cp).since ∧
    ({ port := .cp, begun := 0 } : Request).toArrival = frameOn .cp 0 := by
  decide +kernel

theorem witness_StandardFrameTakesUnmatchedAction : Receiving running .cp 1 ∧ Receiving running .bp 1 := by
  unfold Receiving; decide +kernel

theorem witness_ExtendedFrameGoesToMgtOrFre : Receiving running .cp 1 ∧ Receiving running .bp 1 := by
  unfold Receiving; decide +kernel

theorem witness_QueueForwardedCases :
    let q : ForwardRequest := { frame := short, arrival := .cp, entry := some 3, mark := true }
    Running running ∧ ((running.setPort .bp offPort).port .bp).state = .off ∧ (running.port .bp).state ≠ .off ∧
    q.mark = true ∧
    coalesce q (busyPort 1).waiting = some [{ waitingFrame with kind := .forwarded .cp (some 3) 50 }] ∧
    coalesce q [] = none ∧
    14 ≤ ((running.setPort .bp (busyPort 14)).port .bp).forwardedDepth ∧
    ((running.setPort .bp (busyPort 13)).port .bp).forwardedDepth < 14 := by unfold Running; decide +kernel

theorem witness_QueuePartCases :
    let two : PortRec := { busyPort 0 with waiting := [{ frame := short, kind := .part, mark := false }] }
    Running running ∧ ((running.setPort .bp offPort).port .bp).state = .off ∧
    2 ≤ ((running.setPort .bp two).port .bp).partDepth ∧ (running.port .bp).state ≠ .off ∧
    ((running.setPort .bp (busyPort 0)).port .bp).partDepth < 2 := by unfold Running; decide +kernel

theorem witness_ArbiterTakesFirstRanked :
    let r : PortRec := { waiting := [waitingFrame] }
    offPort.state = .off ∧ (busyPort 1).inFlight ≠ none ∧ (busyPort 0).waiting = [] ∧
    r.state ≠ .off ∧ r.inFlight = none ∧ r.waiting ≠ [] ∧ short.ext = short.ext ∧
    ({ short with ext := false } : Frame).ext = false ∧ short.ext = true := by decide

theorem witness_TransmitAttemptsEnd :
    Running running ∧ PortSound (attemptPort 0 waitingFrame) ∧ PortSound (attemptPort 248 waitingFrame) ∧
    PortSound (attemptPort 247 waitingFrame) ∧ (attemptPort 0 waitingFrame).inFlight = some waitingFrame ∧
    256 ≤ (attemptPort 248 waitingFrame).count + 8 ∧ (attemptPort 247 waitingFrame).count + 8 < 256 ∧
    (attemptPort 88 waitingFrame).state = .active ∧ waitingFrame.kind = .forwarded .cp none 50 ∧
    50 ≤ (running.clock 50).now ∧ (running.clock 49).now < 50 ∧
    ({ waitingFrame with kind := .part } : QueuedFrame).kind = .part := by unfold Running PortSound; decide +kernel

theorem witness_PortTimersExpire :
    let s := running.setPort .bp (busyPort 1)
    Running s ∧ (s.port .bp).waiting[0]? = some waitingFrame ∧ waitingFrame.kind = .forwarded .cp none 50 ∧
    ((running.setPort .bp offPort).port .bp).state = .off ∧ ((running.setPort .bp offPort).port .bp).recovery = some 500 := by
  unfold Running; decide +kernel

theorem witness_RequestsAndResponses :
    Receiving running (req 0 0 0).port 1 ∧ ToMgt running .bp 1 ∧ (List.replicate 7 (1 : Byte)).length < 8 ∧
    ((List.replicate 8 (0 : Byte)).getD 0 0).toNat = 0 ∧ 16 < ((List.replicate 8 (17 : Byte)).getD 0 0).toNat ∧
    running.active.mgmtBase.toNat + 1 < 536870912 := by unfold ToMgt Receiving; decide +kernel

theorem witness_StatusAndSignalReads :
    ToMgt running (req 0 0 0).port 1 ∧ 9 < (req 10 0 0).b2.toNat ∧ (req 0 0 0).b2 = 0 ∧
    (req 1 0 0).b2.toNat = 1 + (channelIndex .main).val ∧ (req 3 0 0).b2.toNat = 1 + (channelIndex .aux).val ∧
    (req 4 0 0).b2.toNat = 4 + (tankIndex .water).val ∧ (req 6 0 0).b2.toNat = 4 + (tankIndex .foamB).val ∧
    (req 7 0 0).b2 = 7 ∧ (req 8 0 0).b2 = 8 ∧ (req 9 0 0).b2 = 9 ∧ 31 < (req 32 0 0).b2.toNat ∧
    (req 31 0 0).b2.toNat = (31 : Fin 32).val ∧ (running.slot 31).fresh = .never ∧ (serviced.slot 5).fresh = .fresh ∧
    (running.setMgt { running.mgt with lastCommit := .rejected 3 2 }).mgt.lastCommit = .rejected 3 2 ∧
    (running.setTnk { running.tnk with water := { level := some 9 } }).tnk.water.level = some 9 := by
  unfold ToMgt Receiving; decide +kernel

theorem witness_TableReads :
    ToMgt running .bp 1 ∧ partExists 0 95 4 ∧ partExists 7 23 0 ∧ ¬partExists 0 96 0 ∧ ¬partExists 3 0 1 ∧ ¬partExists 8 0 0 := by
  unfold ToMgt Receiving partExists; decide +kernel

theorem witness_ShadowChanges :
    ToMgt serviced .bp 1 ∧ ToMgt running .bp 1 ∧ running.service = false ∧ serviced.service = true ∧
    (¬partExists 8 0 0 ∧ 8 ≠ 5) ∧ (partExists 6 2 0 ∧ 1 < (req 0x60 2 2).b4.toNat) ∧
    (¬partExists 6 3 0 ∧ 1 < (req 0x60 3 2).b4.toNat) ∧ (partExists 6 2 0 ∧ ¬1 < (req 0x60 2 1).b4.toNat) ∧
    (Tables.fallback.writePart 6 2 4 0).isSome = true := by
  unfold ToMgt Receiving partExists; decide +kernel

theorem witness_CommitRefusedOrFailed :
    ToMgt running .bp 1 ∧ running.service = false ∧ ToMgt saving .bp 1 ∧ saving.service = true ∧ saving.mgt.save ≠ none ∧
    ToMgt serviced .bp 1 ∧ serviced.service = true ∧ serviced.mgt.save = none ∧ serviced.sys.fallback = false ∧
    serviced.ilk.mode ≠ .parked ∧ ToMgt parked .bp 1 ∧ parked.service = true ∧ parked.mgt.save = none ∧
    parked.ilk.mode = .parked ∧ parked.drv.main.state = .disengaged ∧
    ({ Tables.fallback with roles := Tables.fallback.roles.set 2 40 } : Tables).failing = [(3, 2)] := by
  unfold ToMgt Receiving; decide +kernel

/-- Failing records of several tables, listed by table and index: a GATE entry without its term, a FOAM_A record with equal
thresholds, a NOTICES of 2; a VALID PASS entry passes. Failing records are tagged, and passing ones lose the REJECTED tag. -/
theorem witness_FailingRecords :
    let t : Tables := { Tables.fallback with
      frt := (Tables.fallback.frt.set 1 gateImg).set 2 (passImg + 1), tanks := Tables.fallback.tanks.set 1 1
      params := Tables.fallback.params.set 23 2 }
    let u := t.retagged t.failing
    t.failing = [(0, 1), (6, 1), (7, 23)] ∧ tagOf (u.frt.get 1) = .rejected ∧ tagOf (u.frt.get 2) = .valid ∧
    tagOf (u.tanks.get 1) = .rejected ∧ t.sound = false ∧
    (withTermImage inputImg running).active.failing = [] := by decide +kernel

theorem witness_CommitSucceeds :
    ToMgt parked .bp 1 ∧ parked.service = true ∧ parked.mgt.save = none ∧ parked.ilk.mode = .parked ∧
    parked.drv.main.state = .disengaged ∧ parked.drv.roll.state = .disengaged ∧ parked.drv.aux.state = .disengaged ∧
    fallen.sys.fallback = true ∧ parked.mgt.shadow.failing = [] := by unfold ToMgt Receiving; decide +kernel

/-- The cases of the steps of a commit: held frames under a masked and an unmasked class, stale times, inversions and pulse
modes that change or stay, tanks and supplies of each kind, and the four ways of a target. -/
theorem witness_StepsOfACommit :
    let s := running.setHold [held 8 0, held 9 1]
    let masked := withParam 22 0x4000 s
    let slots := fun (i : Fin 32) (v : Image4) => ({ s.active with slots := s.active.slots.set i.val v } : Tables)
    let written := (running.clock 100).setSlot 10 { value := 7, fresh := .fresh, writtenAt := 50 }
    let speeds := slots 6 (2 + 10 <<< 16 + 1 <<< 26)
    let c : CsuRec := { mode := .pumpRoll, roll := .engaged, supply := .hydrant }
    s.fre.hold = held 8 0 :: [held 9 1] ∧ s.exc.pend.getLsbD 14 = false ∧ s.active.param 23 = 1 ∧ s.active.param 4 = 1 ∧ s.active.mask.getLsbD 14 = false ∧ masked.active.mask.getLsbD 14 = true ∧
    masked.active.mask ≠ s.active.mask ∧ running.fre.hold = [] ∧
    (busyPort 1).inFlight ≠ none ∧ running.cp.inFlight = none ∧ running.cp.waiting = [] ∧
    (slots 10 5).staleTime 10 ≠ s.active.staleTime 10 ∧ (slots 10 5).staleTime 10 = 50 ∧
    (slots 11 5).staleTime 10 = s.active.staleTime 10 ∧ (slots 10 5).staleTime 10 ≠ 0 ∧
    (written.slot 10).fresh = .fresh ∧ (written.slot 10).writtenAt + 50 ≤ written.now ∧
    written.now < (written.slot 10).writtenAt + 60 ∧ (running.slot 10).fresh ≠ .fresh ∧
    (slots 0 (20 + 256)).inverted 0 ≠ s.active.inverted 0 ∧ (slots 0 20).inverted 1 = s.active.inverted 1 ∧
    ((running.setSwitch 0 { accepted := some true }).sig.switches.get 0).accepted = some true ∧
    (running.sig.switches.get 0).accepted = none ∧
    speeds.pulseMode 0 = .speed ∧ speeds.pulseMode 0 ≠ s.active.pulseMode 0 ∧ s.active.pulseMode 0 = .off ∧
    (slots 6 (2 + 20 <<< 16 + 1 <<< 26)).window 0 ≠ speeds.window 0 ∧
    (slots 6 (2 + 10 <<< 16 + 2 <<< 26)).pulseMode 0 = .count ∧
    (slots 6 (3 + 10 <<< 16 + 2 <<< 26)).divisor 0 ≠ (slots 6 (2 + 10 <<< 16 + 2 <<< 26)).divisor 0 ∧
    tanked.active.inService .water = true ∧ running.active.inService .water = false ∧
    tanked.active.inService .foamB = running.active.inService .foamB ∧
    tanked.active.role (tankRole .water) = some 10 ∧ running.active.role (tankRole .water) = none ∧
    ({ sender := .failed } : TankRec).sender = .failed ∧ ({ } : TankRec).sender ≠ .failed ∧
    (tanked.active.tank .water).flow = none ∧
    (running.roleSlot .intakePressure).fresh ≠ .fresh ∧
    ((withRole .intakePressure 10 written).roleSlot .intakePressure).fresh = .fresh ∧
    (withParam 13 5 written).active.param 13 ≤ ((withRole .intakePressure 10 written).roleSlot .intakePressure).value.toNat ∧
    running.tnk.heldMain = .disengaged ∧ running.csu.mode = .road ∧
    (targetOf running.active running.csu) = running.csu.applied ∧
    (targetOf running.active running.csu).toNat < ({ running.csu with applied := 701 } : CsuRec).applied.toNat ∧
    ({ running.csu with applied := 699 } : CsuRec).applied.toNat < (targetOf running.active running.csu).toNat ∧
    c.mode ≠ .road := by decide +kernel

theorem witness_SaveAndItsCompletion :
    ToMgt running .bp 1 ∧ running.service = false ∧ ToMgt saving .bp 1 ∧
    saving.mgt.save = some { port := .bp, tag := 7, since := 0 } ∧
    ToMgt serviced .bp 1 ∧ serviced.service = true ∧ serviced.mgt.save = none ∧ serviced.sys.fallback = false ∧
    serviced.ilk.mode ≠ .parked ∧ fallen.sys.fallback = true ∧ parked.ilk.mode = .parked ∧ Running saving ∧
    Tables.fallback.param 22 < 262144 := by
  unfold ToMgt Receiving Running; decide +kernel

theorem witness_ExceptionRequests :
    let s := serviced.setExc { pend := 0x20000, capture := some { raise := { cls := .portWarn, mode := .road }, further := true } }
    ToMgt s .bp 1 ∧ serviced.exc.pend = 0 ∧ s.exc.pend.getLsbD (17 : Fin 18).val = true ∧
    (∀ m : Fin 18, m < 17 → s.exc.pend.getLsbD m.val = false) ∧ running.service = false ∧ s.service = true ∧
    4 < (req 5 0 0).b2.toNat ∧ (req 4 0 0).b2.toNat ≤ 4 ∧ serviced.exc.capture = none ∧
    s.exc.capture = some { raise := { cls := .portWarn, mode := .road }, further := true } ∧
    ({ cls := .portWarn, mode := .road } : Raise).frame = none ∧
    ({ cls := .fieldRange, mode := .road, frame := some short } : Raise).frame = some short ∧
    captureBytes serviced 4 = some [0, 255, 255, 255, 255] := by
  unfold ToMgt Receiving; decide +kernel

theorem witness_DriveCommandActs :
    let f := withChannel .main .faulted none serviced
    let stuck := withDrive driveImg f
    ToMgt running .bp 1 ∧ 2 < (req 3 2 0).b2.toNat ∧ (req 3 2 0).b3.toNat ≤ 2 ∧ 2 < (req 2 3 0).b3.toNat ∧
    (req 2 0 0).b2.toNat = (channelIndex .aux).val ∧ running.service = false ∧ ToMgt f .bp 1 ∧ f.service = true ∧
    (f.chan .main).state = .faulted ∧ (f.active.drive .main).confirm = none ∧ (stuck.active.drive .main).confirm = some 0 ∧
    (stuck.slot 0).fresh ≠ .fresh ∧ (engage running .aux .management).2 = .refused .notPermitted ∧
    (engage (withChannel .roll .engaged none running) .main .management).2 = .refused .exclusive ∧
    (engage (running.setIlk { running.ilk with mode := .conflict }) .main .management).2 = .refused .conflict ∧
    ((stuck.setSlot 0 { value := 0, fresh := .fresh }).slot 0).value.toNat ≠ (stuck.active.drive .main).level ∧
    (serviced.chan .main).state = .disengaged ∧ ((withChannel .main .engaged none serviced).chan .main).state = .engaged := by
  unfold ToMgt Receiving; decide +kernel

theorem witness_ValveCommandActs :
    let ready := running.setTnk { running.tnk with supply := .hydrant, water := { source := .sender, band := .normal } }
    ToMgt running .bp 1 ∧ 1 < (req 2 1 0).b2.toNat ∧ (req 2 1 0).b3.toNat ≤ 1 ∧ 1 < (req 1 2 0).b3.toNat ∧
    (req 0 0 0).b2 = 0 ∧ (req 1 1 0).b3 = 1 ∧ ToMgt ready .bp 1 ∧ fillAllowed ready.tnk = true ∧
    running.tnk.fillOpen = false ∧ fillAllowed running.tnk = false := by unfold ToMgt Receiving; decide +kernel

theorem witness_ResetRequests :
    let c := fun causes : ResetCauses => (serviced.setSys { serviced.sys with causes := causes }).sys.causes
    ToMgt serviced .bp 1 ∧ serviced.sys.causes.powerOn = true ∧
    (c { resetLine := true }).powerOn = false ∧ (c { resetLine := true }).resetLine = true ∧
    (c { management := true }).resetLine = false ∧ (c { management := true }).management = true ∧
    (c { startFallback := true }).management = false ∧ (c { startFallback := true }).startFallback = true ∧ c { } = { } ∧
    running.service = false ∧ serviced.service = true ∧ serviced.sys.fallback = false ∧ serviced.ilk.mode ≠ .parked ∧
    fallen.sys.fallback = true ∧ parked.ilk.mode = .parked := by unfold ToMgt Receiving; decide +kernel

theorem witness_LookupAndUnmatchedFrames :
    ToFre running (frameOn .cp 1) 9 ∧ running.active.lookup .cp 9 = none ∧ (withEntry passImg running).active.lookup .bp 9 = some 0 := by
  unfold ToFre Receiving; decide +kernel

theorem witness_MatchedFrameSteps :
    let s := withEntry extractImg running
    ToFre s (frameOn .cp 1) 9 ∧ s.active.lookup .cp 9 = some 0 ∧
    (∃ x ∈ frtExtractions (s.entry 0), x.fits (extFrame 9 []).data.length = false) ∧ s.active.masked .fieldRange = false ∧
    HandledBy s (frameOn .cp 1) 9 [1] 0 ∧ frtExtractions ((withEntry passImg running).entry 0) = [] ∧
    (∀ d ∈ s.outbox, receiver d ≠ some .drv) ∧
    let t := s.post [.heartbeat, .supervisionLapse, .heartbeat]
    t.outbox = [.heartbeat] ++ .supervisionLapse :: [.heartbeat] ∧ (∀ x ∈ [Instr.heartbeat], receiver x ≠ some .drv) ∧
    receiver .supervisionLapse = some .drv := by
  unfold HandledBy ToFre Receiving; decide +kernel

theorem witness_PassAndDropEntries :
    let template := passImg ||| (0x80 <<< 96)
    HandledBy (withEntry passImg running) (frameOn .cp 1) 9 [1] 0 ∧ HandledBy (withEntry dropImg running) (frameOn .bp 1) 9 [] 0 ∧
    frtAction dropImg = .drop ∧ frtAction passImg = .pass ∧ frtOpen passImg = none ∧
    HandledBy (withEntry template running) (frameOn .cp 1) 9 [1] 0 ∧ frtAction template = .pass ∧ frtOpen template = some 0 := by
  unfold HandledBy ToFre Receiving; decide +kernel

theorem witness_GateEntriesAndClosedTreatment :
    let closed := gateImg ||| (0x80 <<< 104)
    let report := gateImg ||| (1 <<< 12)
    let both := report ||| (0x80 <<< 104)
    HandledBy (withEntry gateImg running) (frameOn .cp 1) 9 [1] 0 ∧ frtAction gateImg = .gate ∧ frtTerm gateImg = some 0 ∧
    frtClosed gateImg = none ∧ frtReport gateImg = false ∧ frtClosed report = none ∧ frtReport report = true ∧
    frtClosed closed = some 0 ∧ frtReport closed = false ∧ frtClosed both = some 0 ∧ frtReport both = true := by
  unfold HandledBy ToFre Receiving; decide +kernel

theorem witness_HoldEntries :
    let s := withEntry holdImg running
    let u := fun l : List HeldFrame => (atAction (s.setHold l) (frameOn .cp 1) (extFrame 9 [1]) 0).fre.hold
    HandledBy s (frameOn .cp 1) 9 [1] 0 ∧ frtAction (s.entry 0) = .hold ∧ frtTerm (s.entry 0) = some 0 ∧
    (atAction (withResult .tt s) (frameOn .cp 1) (extFrame 9 [1]) 0).ilk.terms.get 0 = .tt ∧
    (atAction s (frameOn .cp 1) (extFrame 9 [1]) 0).ilk.terms.get 0 ≠ .tt ∧
    (∃ h ∈ u [held 9 0], h.frame.ident = 9 ∧ h.entry = 0) ∧
    ((∀ h ∈ u [held 9 1], ¬(h.frame.ident = 9 ∧ h.entry = 0)) ∧ ∃ h ∈ u [held 9 1], h.frame.ident = 9) ∧
    ((∀ h ∈ u (List.replicate 8 (held 8 0)), ¬(h.frame.ident = 9 ∧ h.entry = 0)) ∧
      8 ≤ (u (List.replicate 8 (held 8 0))).length) ∧
    ((∀ h ∈ u (List.replicate 7 (held 8 0)), h.frame.ident ≠ 9) ∧ (u (List.replicate 7 (held 8 0))).length < 8) := by
  unfold HandledBy ToFre Receiving; decide +kernel

theorem witness_SetPatchWritesItsField :
    let q : Patch := { clamp := false, start := 0, len := 16, const := 5 }
    q.clamp = false ∧ q.start + q.len ≤ 8 * [(1 : Byte), 2].length ∧ q.start + q.len ≤ 16 := by decide

theorem witness_TemplateForwarding :
    let f : Frame := { short with data := [1, 2] }
    (∃ x ∈ rttPatches clampImg, 8 * short.data.length < x.start + x.len) ∧
    (∀ x ∈ rttPatches setImg, x.start + x.len ≤ 8 * f.data.length) ∧ rttReissue setImg = false ∧
    (∀ x ∈ rttPatches clampImg, x.start + x.len ≤ 8 * f.data.length) ∧ rttReissue clampImg = true ∧
    (∀ x ∈ rttPatches clampImg, x.clamp = true) ∧ rttPatches clampImg ≠ [] := by decide +kernel

theorem witness_HoldBufferEvents :
    let s := running.setHold [held 8 0, held 9 0, held 10 0]
    Running running ∧ running.ilk.terms.get 0 ≠ .tt ∧ (withResult .tt running).ilk.terms.get 0 = .tt ∧ Running s ∧
    s.fre.hold = [held 8 0] ++ held 9 0 :: [held 10 0] ∧ ∀ x ∈ [held 8 0], x.frame.ident ≠ (held 9 0).frame.ident := by
  unfold Running; decide +kernel

theorem witness_CeilingFallReissues :
    let c : ClampField := { start := 0, len := 16, raw := 800 }
    let r : ReissueRec :=
      { frame := { short with data := [0x20, 3] }, clamps := [c], target := .bp, arrival := .cp, entry := 0, time := 0 }
    Running running ∧ running.fre.reissue.get 0 = none ∧
    ((running.clock 299).now - r.time < running.active.param 8 ∧
      ∃ k ∈ r.clamps, running.csu.applied.toNat < readField r.frame.data k.start k.len) ∧
    ¬(running.clock 300).now - r.time < running.active.param 8 := by unfold Running; decide +kernel

theorem witness_SlotWritesAndStaleness :
    let s := running.setSlot 31 { value := 3, fresh := .fresh, staleAt := some 20 }
    Running s ∧ (s.slot 31).fresh = .fresh ∧ (s.slot 31).staleAt = some 20 ∧
    (withTermImage ltImg running).active.ilkSubscribes 10 = true ∧ running.active.ilkSubscribes 10 = false ∧
    (withRole .parkBrake 31 running).active.ilkSubscribes 31 = true ∧
    (withDrive driveImg running).active.drvSubscribes 0 = true ∧ running.active.drvSubscribes 0 = false ∧
    tanked.active.tnkSubscribes 10 = true ∧ tanked.active.tnkSubscribes 11 = false := by unfold Running; decide +kernel

theorem witness_LineInputsAreSampled :
    let ticking := running.setSwitch 5 { line := true, timer := some 20 }
    let bounced := running.setSwitch 5 { line := true, timer := some 20, accepted := some true }
    let mode := fun n : Nat => running.setActive
      { running.active with slots := running.active.slots.set 9 (BitVec.ofNat 32 (2 + n * 2 ^ 26)) }
    (running.sig.switches.get 5).line = false ∧ Running running ∧ ¬Running State.reset ∧
    (ticking.sig.switches.get 5).timer = some 20 ∧
    (ticking.sig.switches.get 5).accepted ≠ some (ticking.sig.switches.get 5).line ∧
    (bounced.sig.switches.get 5).accepted = some (bounced.sig.switches.get 5).line ∧
    running.active.pulseMode 3 = .off ∧ (mode 1).active.pulseMode 3 = .speed ∧ (mode 2).active.pulseMode 3 = .count ∧
    ((mode 2).sig.pulses.get 3).count + 1 < (mode 2).active.divisor 3 ∧
    (mode 2).active.divisor 3 ≤ (((mode 2).setPulse 3 { count := 1 }).sig.pulses.get 3).count + 1 ∧
    ((running.setPulse 3 { windowEnd := some 9 }).sig.pulses.get 3).windowEnd = some 9 := by unfold Running; decide +kernel

theorem witness_ConditionsTakeTheirInputs :
    Running (withTermImage ltImg running) ∧
    ((withTermImage ltImg running).active.conds 0)[(0 : Fin 4).val]? = some (.signal 10 .lt 100 0 0) ∧
    (withTermImage inputImg running).active.conds 0 =
      [.mode 2, .drive .main 8, .band .water 4, .supply .hydrant] ∧
    (10 : Fin 32) ≠ (SlotEvent.stale 11 0).slot ∧
    (after (.ilkDriveStateChange .main) (withChannel .main .engaged none running)).ilk.mode ≠ running.ilk.mode ∧
    (after (.ilkDriveStateChange .aux) running).ilk.mode = running.ilk.mode := by
  unfold Running; decide +kernel

theorem witness_CombinersOfTerms :
    let all := withTermImage ltImg running
    let any := withTermImage (ltImg ||| (1 <<< 8)) running
    isValid (all.active.itt.get 0) = true ∧ ittAny (all.active.itt.get 0) = false ∧
    isValid (any.active.itt.get 0) = true ∧ ittAny (any.active.itt.get 0) = true ∧
    (all.active.conds 0)[(0 : Fin 4).val]? = some (.signal 10 .lt 100 0 0) ∧
    (stored.sys.store.tables.conds 1)[(0 : Fin 4).val]? = some (.term 0) ∧
    isValid (running.active.itt.get 0) = false := by decide +kernel

theorem witness_TermsSettleInOneTaking :
    Running (withTermImage ltImg running) ∧
    (∀ t j : Fin 24, Cond.term j ∈ (withTermImage ltImg running).active.conds t → j < t) ∧
    (running.ilk.terms.get 0 = termResult running running.ilk.terms 0 ∧
      (after .ilkSupplyChange running).ilk.mem.get 0 = running.ilk.mem.get 0 ∧
      ∀ j, Cond.term j ∉ running.active.conds 0) := by unfold Running; decide +kernel

theorem witness_ModeFollowsItsTable :
    let s := withRole .parkBrake 11 (withRole .roadSpeed 10 running)
    Running s ∧ s.active.role .roadSpeed = some (SlotEvent.written 10 0 0 .never (.entry 0)).slot ∧
    s.active.role .parkBrake = some (SlotEvent.stale 11 0).slot ∧
    s.active.role .roadSpeed ≠ some (SlotEvent.stale 12 0).slot ∧ s.active.role .parkBrake ≠ some (SlotEvent.stale 12 0).slot ∧
    s.drv.main.state = .disengaged ∧ (withChannel .main .engaged none s).drv.main.state ≠ .disengaged ∧
    (s.roleSlot .parkBrake).fresh ≠ .fresh ∧
    ((s.setSlot 11 { value := 1, fresh := .fresh }).roleSlot .parkBrake).fresh = .fresh ∧
    ¬s.active.param 11 < ((s.setSlot 10 { value := 160, fresh := .fresh }).roleSlot .roadSpeed).value.toNat ∧
    s.active.param 11 < ((s.setSlot 10 { value := 161, fresh := .fresh }).roleSlot .roadSpeed).value.toNat := by
  unfold Running; decide +kernel

theorem witness_ChannelStateAndLine :
    (running.chan .main).state = ({ } : ChannelRec).state ∧
    ({ state := .engaged } : ChannelRec).state ≠ (running.chan .main).state := by decide +kernel

theorem witness_EngageRequestsAreChecked :
    let s := withResult .tt (withDrive driveImg running)
    (s.chan .main).state = .disengaged ∧ (s.setIlk { s.ilk with mode := .conflict }).ilk.mode = .conflict ∧
    s.ilk.mode ≠ .conflict ∧ (withChannel .roll .shifting none s).drv.roll.state ≠ .disengaged ∧
    s.drv.roll.state = .disengaged ∧ (running.active.drive .main).permit = none ∧
    (s.active.drive .main).permit = some 0 ∧ s.ilk.terms.get 0 = .tt ∧
    ((withChannel .main .shifting none s).chan .main).state = .shifting ∧
    ((withChannel .main .releasing none s).chan .main).state = .releasing ∧
    ((withChannel .main .faulted none s).chan .main).state = .faulted := by decide +kernel

theorem witness_SlotEventsAtTheDrives :
    let s := withRole .reqMain 0 (withDrive driveImg (running.setSlot 0 { value := 1, fresh := .fresh }))
    let verifying := withChannel .main .verifying (some (.verify, 9)) s
    Running s ∧ s.active.role (reqRole .main) = some (SlotEvent.written 0 1 0 .fresh .line).slot ∧
    s.active.role (reqRole .roll) ≠ some 0 ∧ (verifying.chan .main).state = .verifying ∧
    (s.active.drive .main).confirm = some 0 ∧ confirmHolds verifying (s.active.drive .main) = true ∧
    ratioHolds verifying (s.active.drive .main) = true ∧ confirmHolds running (s.active.drive .main) = false ∧
    (0 : Raw).toNat ≠ (s.active.drive .main).level ∧ (1 : Raw).toNat = (s.active.drive .main).level ∧
    (s.active.drive .main).confirm ≠ some 1 ∧ ((withChannel .main .engaged none s).chan .main).state = .engaged := by
  unfold Running; decide +kernel

theorem witness_RatioCheckIsExact :
    let speeds := driveOfImage (driveImg ||| (0x9392 <<< 32))
    (driveOfImage driveImg).speeds = none ∧ speeds.speeds = some (18, 19) := by decide +kernel

theorem witness_PermitRiseLeavesChannels : Running running := by unfold Running; decide +kernel

theorem witness_LossesReleaseChannels :
    let s := withDrive driveImg running
    Running s ∧ (s.active.drive .main).permit = some 0 ∧ (s.active.drive .main).permit ≠ some 1 ∧
    (s.active.drive .main).releaseOnLoss = false ∧
    (driveOfImage (driveImg ||| (1 <<< 16))).permit = some 0 ∧ (driveOfImage (driveImg ||| (1 <<< 16))).releaseOnLoss = true ∧
    ((withChannel .main .engaged none s).chan .main).state = .engaged ∧
    ((withChannel .main .shifting none s).chan .main).state = .shifting ∧
    ((withChannel .main .verifying none s).chan .main).state = .verifying ∧ (s.chan .main).state ≠ .engaged := by
  unfold Running; decide +kernel

theorem witness_DriveTimersExpire :
    let s := withDrive driveImg running
    let on := s.setSlot 0 { value := 1, fresh := .fresh }
    let d := s.active.drive .main
    let settling := withChannel .main .shifting (some (.settle, 50)) s
    let verifying := withChannel .main .verifying (some (.verify, 100)) s
    let releasing := withChannel .main .releasing (some (.release, 50)) s
    Running settling ∧ (settling.chan .main).state = .shifting ∧ (settling.chan .main).timer = some (.settle, 50) ∧
    confirmHolds on d = true ∧ ratioHolds on d = true ∧ confirmHolds s d = false ∧
    (verifying.chan .main).timer = some (.verify, 100) ∧ (releasing.chan .main).timer = some (.release, 50) ∧
    (running.active.drive .main).confirm = none ∧ d.confirm = some 0 ∧
    ((s.setSlot 0 { value := 0, fresh := .fresh }).slot 0).value.toNat ≠ d.level ∧
    (s.slot 0).fresh ≠ .fresh := by unfold Running; decide +kernel

theorem witness_LevelSamplesJudgeTheSender :
    let c := tankOfImage tankImg
    let good : TankRec := { window := [100, 100, 100], base := 100 }
    let suspect : TankRec := { good with sender := .suspect, strikes := 1 }
    let failed : TankRec := { good with sender := .failed }
    good.window.length ≤ 3 ∧ good.sender ≠ .failed ∧ ({ } : TankRec).window = [] ∧ ({ } : TankRec).sender = .good ∧
    good.window ≠ [] ∧ filtered [100, 100, 120] = some 100 ∧ (100 : Raw).toNat ≤ good.base.toNat - good.drawn + c.limit ∧
    filtered [100, 121, 121] = some 121 ∧ ¬(121 : Raw).toNat ≤ good.base.toNat - good.drawn + c.limit ∧
    suspect.strikes < 2 ∧ ({ suspect with strikes := 2 } : TankRec).strikes = 2 ∧ failed.sender = .failed ∧
    c.flow = none ∧ ({ c with flow := some 0 } : TankCfg).flow ≠ none ∧ failed.agree < 2 ∧
    ({ failed with agree := 2 } : TankRec).agree = 2 := by decide +kernel

theorem witness_BandsFollowTheLevel :
    let c := tankOfImage tankImg
    running.active.inService .water = false ∧ tanked.active.inService .water = true ∧
    ({ } : TankRec).sender ≠ .failed ∧ ({ sender := .failed } : TankRec).sender = .failed ∧
    (withTank (tankImg ||| (0x80 <<< 8)) tanked).active.tank .water ≠ tanked.active.tank .water ∧
    ((withTank (tankImg ||| (0x80 <<< 8)) tanked).active.tank .water).flow ≠ none ∧
    (tanked.active.tank .water).flow = none ∧ c.lowAt < c.normalAt ∧ c.normalAt < c.fullAt ∧
    c.fullAt + c.hyst ≤ (310 : Raw).toNat ∧ (309 : Raw).toNat < c.fullAt + c.hyst ∧
    c.normalAt + c.hyst ≤ (210 : Raw).toNat ∧ (209 : Raw).toNat < c.normalAt + c.hyst ∧
    c.lowAt + c.hyst ≤ (110 : Raw).toNat ∧ (109 : Raw).toNat < c.lowAt + c.hyst ∧ (99 : Raw).toNat < c.lowAt := by
  decide +kernel

theorem witness_SlotEventsAtTheTanks :
    let s := withRole .reqFill 1 (withRole .reqTankValve 0 (withRole .intakePressure 11 tanked))
    Running s ∧ s.active.inService .water = true ∧ s.active.role (tankRole .water) = some 10 ∧
    s.active.inService .foamA = false ∧ s.active.role .intakePressure = some 11 ∧
    s.active.role .reqTankValve = some 0 ∧ s.active.role .reqFill = some 1 ∧ s.active.role .reqFill ≠ some 2 ∧
    s.tnk.fillOpen = false ∧ fillAllowed s.tnk = false ∧
    fillAllowed { s.tnk with supply := .hydrant, water := { source := .sender, band := .empty } } = true := by
  unfold Running; decide +kernel

theorem witness_TakingsOfTnkEnd :
    let n : TnkRec := { running.tnk with water := { band := .empty }, heldMain := .engaged }
    (tnkTake running n false).tnk.dry = true ∧ n.dry = false ∧ (tnkTake running { n with dry := true } false).tnk.dry = true ∧
    (tnkTake running running.tnk false).tnk.dry = false := by decide +kernel

theorem witness_OtherEventsAtTheTanks :
    let s := tanked.setTnk { tanked.tnk with runDry := some 30000 }
    Running tanked ∧ tanked.active.inService .water = true ∧ tanked.active.inService .foamB = false ∧
    tanked.tnk.runDry = none ∧ Running s ∧ s.tnk.runDry = some 30000 := by unfold Running; decide +kernel

theorem witness_TargetCeilingCases :
    let c : CsuRec := { mode := .pumpRoll, roll := .engaged, supply := .hydrant }
    ({ } : CsuRec).mode = .road ∧ c.mode = .pumpRoll ∧ c.roll = .engaged ∧ c.sup ≠ .lapsed ∧ c.supply ≠ .tank ∧
    ({ c with supply := .tank, band := .low } : CsuRec).band = .low := by decide

theorem witness_CeilingEvents :
    let s := running.setCsu { running.csu with mode := .parked, sup := .armed, supTimer := some 500, ramp := some 100 }
    Running s ∧ running.csu.mode = .road ∧ running.csu.sup = .disarmed ∧ s.csu.mode ≠ .road ∧ s.csu.sup = .armed ∧
    s.csu.supTimer = some 500 ∧ s.csu.ramp = some 100 ∧ s.csu.applied.toNat ≤ s.csu.target.toNat ∧
    (targetOf s.active s.csu).toNat < ({ s.csu with applied := 701 } : CsuRec).applied.toNat ∧
    targetOf s.active s.csu = s.csu.applied ∧
    ({ s.csu with applied := 699 } : CsuRec).applied.toNat < (targetOf s.active s.csu).toNat := by
  unfold Running; decide +kernel

theorem witness_RaisesAreTakenWhole :
    let masked := withParam 22 8 running
    Running masked ∧ masked.active.mask.getLsbD (classNumber .dryRun - 1) = true ∧
    running.active.mask.getLsbD (classNumber .dryRun - 1) = false ∧
    running.exc.pend.getLsbD (classNumber .dryRun - 1) = false ∧ running.active.param 23 = 1 ∧ running.active.param 4 = 1 ∧
    running.active.mgmtBase.toNat + 2 < 536870912 ∧
    (withParam 4 0 running).active.param 4 = 0 ∧ (withParam 4 2 running).active.param 4 ≠ 0 ∧
    (withParam 4 2 running).active.param 4 ≠ 1 ∧ (withParam 23 0 running).active.param 23 ≠ 1 := by
  unfold Running; decide +kernel

theorem witness_ResetsAndTheirRelease :
    let low := after .resetLine running
    let dead := after .powerFail low
    running.sys.resetLow = false ∧ low.sys.resetLow = true ∧ low.sys.powered = true ∧ dead.sys.resetLow = true ∧
    dead.sys.powered = false ∧ dead.sys.causes = low.sys.causes := by decide +kernel

theorem witness_StartUpEnds :
    State.reset.sys.phase = .start ∧ State.reset.sys.readAt = some 0 ∧ (after .resetLine running).sys.phase ≠ .start ∧
    State.reset.csu.mode = .road ∧ stored.sys.phase = .start ∧ stored.sys.readAt = some 0 ∧
    (stored.sys.store.tables.conds 1)[(0 : Fin 4).val]? = some (.term 0) := by decide +kernel

theorem witness_StartUpEnds_good : stored.sys.store.good = true :=
  (good_holding _).trans (by decide +kernel)

theorem witness_DriveStatesAndLinesStaySound :
    DrivesExclusive running ∧ LinesFollow running ∧ step running = .next running.tick := by
  refine ⟨Or.inl rfl, ?_, rfl⟩
  unfold LinesFollow; decide +kernel

theorem witness_QueuesAndCeilingStayBounded :
    PortsSound running ∧ HoldBound running ∧ CeilingBound running ∧ step running = .next running.tick := by
  refine ⟨?_, ?_, ?_, rfl⟩
  · unfold PortsSound PortSound; decide +kernel
  · unfold HoldBound; decide +kernel
  · unfold CeilingBound; decide +kernel

theorem witness_RestExceptionsAndFillStaySound :
    QuietOutsideRun running ∧ HeldInReset running ∧ ExceptionBits running ∧ FillGuard running ∧
    step running = .next running.tick := by
  refine ⟨?_, ?_, ?_, ?_, rfl⟩
  · intro h; exact absurd rfl h
  · intro h; rcases h with h | h <;> exact absurd h (by decide)
  · unfold ExceptionBits; decide +kernel
  · unfold FillGuard; decide +kernel

theorem witness_ActiveTablesStaySound :
    ActiveSound running ∧ step running = .next running.tick ∧
    (withEntry gateImg running).active.frt.get 0 = gateImg ∧ isValid gateImg = true ∧ frtAction gateImg = .gate ∧
    frtAction holdImg = .hold ∧ isValid holdImg = true := by
  refine ⟨?_, rfl, by decide +kernel⟩
  unfold ActiveSound; decide +kernel

end Sys2Proof.Tests
end

