-- ==== Sys2Proof/Proofs/BusPorts.lean ====
section
/-! Reception of frames by a port, and the standard-format frame (R1 to R4). -/

namespace Sys2Proof.Proofs

open Sys2Proof Sys2Proof.Machine Sys2Proof.Safety

/-- The model's test of reception says what the statements call receiving (R1, R13, R14). -/
theorem receives_iff_receiving (s : State) (p : Port) (begun : Nat) :
    s.receives p begun = true ↔ Receiving s p begun := by
  simp [State.receives, Receiving, and_assoc]

/-- A frame that its port receives takes its effect. -/
theorem received_of_receiving {s : State} {p : Port} {begun : Nat} (h : Receiving s p begun) (k : State → State) :
    s.received p begun k = k s :=
  if_pos ((receives_iff_receiving s p begun).2 h)

/-- UNMATCHED_ACTION is PASS exactly where parameter 5 is 0 (R4, R21). -/
theorem unmatchedPass_iff (t : Tables) : t.unmatchedPass = true ↔ t.param 5 = 0 := beq_iff_eq

/-- What UNMATCHED_ACTION does with a frame, by the parameter's value (R4, R21). -/
theorem unmatched_eq (s : State) (p : Port) (f : Frame) :
    unmatched s p f =
      if s.active.param 5 = 0 then queueForwarded s p.other { frame := f, arrival := p, entry := none, mark := false }
      else s := by
  simp only [unmatched, unmatchedPass_iff]

/-- The command STANDARD_FRAME, on a port that receives the frame, is UNMATCHED_ACTION alone. -/
theorem exec_standardFrame_of_receiving {s : State} {a : Arrival} (h : Receiving s a.port a.begun) (id : BitVec 11)
    (data : List Byte) : exec (.standardFrame a id data) s = .next (unmatched s a.port (stdFrame id data)) :=
  congrArg Host.Outcome.next (received_of_receiving h fun s => unmatched s a.port (stdFrame id data))

/-- Up to eight data bytes are all kept. -/
theorem stdFrame_of_length_le (id : BitVec 11) {data : List Byte} (h : data.length ≤ 8) :
    stdFrame id data = { ext := false, ident := id.setWidth 29, data := data } := by
  rw [stdFrame, List.take_of_length_le h]

/-- Settles O5: reception reduces the command to UNMATCHED_ACTION, whose two cases the parameter decides. -/
theorem standardFrameTakesUnmatchedAction : Obligations.StandardFrameTakesUnmatchedAction := by
  intro s a id data hrec
  constructor
  · calc exec (.standardFrame a id data) s
        = .next (unmatched s a.port (stdFrame id data)) := exec_standardFrame_of_receiving hrec id data
      _ = _ := by rw [unmatched_eq]
  · exact stdFrame_of_length_le id

end Sys2Proof.Proofs
end

section
/-! The fields of a frame's data (00 section 0.6), bit by bit, and what a SET patch writes (R31). -/

namespace Sys2Proof.Proofs

open Sys2Proof Sys2Proof.Machine

/-- One byte more is a factor 256 more. -/
theorem two_pow_eight_mul_succ (count : Nat) : 2 ^ (8 * (count + 1)) = 256 * 2 ^ (8 * count) := by
  rw [Nat.mul_succ, pow_add, Nat.mul_comm]; norm_num

/-- The data as a number has eight bits for each byte. -/
theorem dataNat_lt (data : List Byte) : dataNat data < 2 ^ (8 * data.length) := by
  induction data with
  | nil => exact Nat.one_pos
  | cons b bs ih =>
    rw [dataNat, List.length_cons, two_pow_eight_mul_succ]
    have hbyte := b.isLt
    omega

@[simp] theorem natData_length (count n : Nat) : (natData count n).length = count := by
  induction count generalizing n with
  | zero => rfl
  | succ count ih => rw [natData, List.length_cons, ih]

/-- The first bytes of a number hold its lowest bits. -/
theorem dataNat_natData (count n : Nat) : dataNat (natData count n) = n % 2 ^ (8 * count) := by
  induction count generalizing n with
  | zero => exact (Nat.mod_one n).symm
  | succ count ih =>
    calc dataNat (natData (count + 1) n)
        = n % 256 + 256 * (n / 256 % 2 ^ (8 * count)) := by rw [natData, dataNat, ih, BitVec.toNat_ofNat]
      _ = n % (256 * 2 ^ (8 * count)) := (Nat.mod_mul ..).symm
      _ = n % 2 ^ (8 * (count + 1)) := by rw [two_pow_eight_mul_succ]

/-- Past the last byte the data has no bit. -/
theorem testBit_dataNat_of_length_le {data : List Byte} {i : Nat} (h : 8 * data.length ≤ i) :
    (dataNat data).testBit i = false :=
  Nat.testBit_lt_two_pow ((dataNat_lt data).trans_le (Nat.pow_le_pow_right Nat.two_pos h))

/-- Bit i of a field is the bit of the data i above the field's start (R49). -/
theorem testBit_readField (data : List Byte) (start len i : Nat) :
    (readField data start len).testBit i = (decide (i < len) && (dataNat data).testBit (start + i)) := by
  rw [readField, Nat.testBit_mod_two_pow, Nat.testBit_div_two_pow, Nat.add_comm i start]

@[simp] theorem writeField_length (data : List Byte) (start len v : Nat) :
    (writeField data start len v).length = data.length :=
  natData_length ..

/-- A field written in range holds the lowest bits of the value; every other bit of the data stays (R31). -/
theorem testBit_writeField {data : List Byte} {start len : Nat} (v : Nat) (hfit : start + len ≤ 8 * data.length) (i : Nat) :
    (dataNat (writeField data start len v)).testBit i =
      if start ≤ i ∧ i < start + len then v.testBit (i - start) else (dataNat data).testBit i := by
  have hsplit : dataNat data % 2 ^ start + v % 2 ^ len * 2 ^ start +
        dataNat data / 2 ^ (start + len) * 2 ^ (start + len) =
      2 ^ start * (2 ^ len * (dataNat data / 2 ^ (start + len)) + v % 2 ^ len) + dataNat data % 2 ^ start := by
    rw [pow_add]; ring
  rw [writeField, dataNat_natData, hsplit, Nat.testBit_mod_two_pow,
    Nat.testBit_two_pow_mul_add _ (Nat.mod_lt _ (Nat.two_pow_pos start)),
    Nat.testBit_two_pow_mul_add _ (Nat.mod_lt _ (Nat.two_pow_pos len)), Nat.testBit_mod_two_pow, Nat.testBit_mod_two_pow,
    Nat.testBit_div_two_pow]
  rcases Nat.lt_or_ge i start with hbelow | hstart
  · have hin : i < 8 * data.length := by omega
    simp [hbelow, hin, Nat.not_le.2 hbelow]
  · rcases Nat.lt_or_ge i (start + len) with hfield | habove
    · have hin : i < 8 * data.length := by omega
      have hoff : i - start < len := by omega
      simp [hstart, hfield, hin, hoff, Nat.not_lt.2 hstart]
    · have hoff : ¬i - start < len := by omega
      have hback : i - start - len + (start + len) = i := by omega
      rcases Nat.lt_or_ge i (8 * data.length) with hin | hpast
      · simp [hin, hoff, hback, Nat.not_lt.2 hstart, Nat.not_lt.2 habove]
      · simp [testBit_dataNat_of_length_le hpast, Nat.not_lt.2 hpast, Nat.not_lt.2 habove]

/-- A field written in range reads as the lowest bits of what was written, as many as it has (R31). -/
theorem readField_writeField_same {data : List Byte} {start len : Nat} (v : Nat) (hfit : start + len ≤ 8 * data.length) :
    readField (writeField data start len v) start len = v % 2 ^ len := by
  refine Nat.eq_of_testBit_eq fun i => ?_
  rw [testBit_readField, testBit_writeField v hfit, Nat.testBit_mod_two_pow]
  by_cases hi : i < len <;> simp [hi]

/-- A field that shares no bit with the one written reads as before (R31). -/
theorem readField_writeField_disjoint {data : List Byte} {start len start' len' : Nat} (v : Nat)
    (hfit : start + len ≤ 8 * data.length) (hdisj : start' + len' ≤ start ∨ start + len ≤ start') :
    readField (writeField data start len v) start' len' = readField data start' len' := by
  refine Nat.eq_of_testBit_eq fun i => ?_
  rw [testBit_readField, testBit_readField, testBit_writeField v hfit]
  by_cases hi : i < len'
  · have hout : ¬(start ≤ start' + i ∧ start' + i < start + len) := by omega
    rw [if_neg hout]
  · simp [hi]

/-- A SET patch writes its constant into its field (R31). -/
theorem applyPatch_of_set {q : Patch} (h : q.clamp = false) (ceiling : Nat) (data : List Byte) :
    applyPatch ceiling data q = writeField data q.start q.len q.const := by
  simp [applyPatch, h]

/-- Settles O28: a SET patch is one write of a field in range, whose bits `testBit_writeField` gives. -/
theorem setPatchWritesItsField : Obligations.SetPatchWritesItsField := by
  intro c data q hset hfit
  rw [applyPatch_of_set hset]
  exact ⟨readField_writeField_same q.const hfit, writeField_length .., fun _ _ => readField_writeField_disjoint q.const hfit⟩

end Sys2Proof.Proofs
end

section
/-! A frame handled under an entry: how FRE comes to the entry's action (R19 to R22), and the actions PASS and DROP (R24). -/

namespace Sys2Proof.Proofs

open Sys2Proof Sys2Proof.Machine Sys2Proof.Safety

/-- A frame that its port receives and that is no request goes to FRE (R3). -/
theorem exec_frameHandledByFre_of_toFre {s : State} {a : Arrival} {id : Ident} (h : ToFre s a id) (data : List Byte) :
    exec (.frameHandledByFre a id data) s = .next (freTake s a (extFrame id data)) := by
  obtain ⟨hrec, hnotMgt⟩ := h
  calc exec (.frameHandledByFre a id data) s
      = .next (handOn s a id data) :=
        congrArg Host.Outcome.next (received_of_receiving hrec fun s => handOn s a id data)
    _ = .next (freTake s a (extFrame id data)) := congrArg Host.Outcome.next (if_neg hnotMgt)

/-- A frame goes on after step 1 of R22 exactly where every extraction is in range or FIELD_RANGE is masked (R50, R51). -/
theorem goesOn_iff (t : Tables) (len : Nat) (xs : List Extraction) :
    goesOn t len xs = true ↔ (∀ x ∈ xs, x.fits len = true) ∨ t.masked .fieldRange = true := by
  simp [goesOn]

/-- A frame that goes on writes all its extractions in range (R51). -/
theorem writtenExtractions_of_goesOn {t : Tables} {len : Nat} {xs : List Extraction} (h : goesOn t len xs = true) :
    writtenExtractions t len xs = xs.filter (·.fits len) :=
  if_pos h

/-- A matched frame that goes on comes to its entry's action in the state that steps 1 and 2 of R22 leave. -/
theorem matched_of_goesOn {s : State} (a : Arrival) {f : Frame} {e : Fin 96}
    (h : goesOn s.active f.data.length (frtExtractions (s.entry e)) = true) :
    matched s a f e = frameAction (atAction s a f e) f a.port e := by
  rw [matched, if_pos h, writtenExtractions_of_goesOn h, atAction]

/-- The command of a frame that goes on under entry e is the action of the entry, after extraction and heartbeat (R22). -/
theorem exec_frameHandledByFre_of_handledBy {s : State} {a : Arrival} {id : Ident} {data : List Byte} {e : Fin 96}
    (h : HandledBy s a id data e) :
    exec (.frameHandledByFre a id data) s =
      .next (frameAction (atAction s a (extFrame id data) e) (extFrame id data) a.port e) := by
  obtain ⟨hfre, hentry, hgoes⟩ := h
  have htake : freTake s a (extFrame id data) = matched s a (extFrame id data) e := by
    have hlookup : s.active.lookup a.port (extFrame id data).ident = some e := hentry
    rw [freTake, hlookup]
  rw [exec_frameHandledByFre_of_toFre hfre, htake, matched_of_goesOn a ((goesOn_iff ..).2 hgoes)]

/-- Steps 1 and 2 of R22 leave the active tables as they are. -/
@[simp] theorem atAction_active (s : State) (a : Arrival) (f : Frame) (e : Fin 96) : (atAction s a f e).active = s.active := by
  have hextract := extract_keeps State.active (fun _ _ _ _ => rfl)
    (fun d u => by obtain ⟨_, _, _, _, _, _, _, _, _, _, h⟩ := takeEvent_frame d u; rw [h])
  simp only [atAction]
  split
  · rw [post_active, hextract, post_active]
  · rw [hextract, post_active]

/-- The entry that a frame's action reads is the one the frame matched. -/
@[simp] theorem atAction_entry (s : State) (a : Arrival) (f : Frame) (e e' : Fin 96) :
    (atAction s a f e).entry e' = s.entry e' := by
  rw [State.entry, atAction_active, State.entry]

/-- PASS forwards through the entry's open template, without a look at any term (R24). -/
theorem frameAction_of_pass {s : State} {e : Fin 96} (h : frtAction (s.entry e) = .pass) (f : Frame) (p : Port) :
    frameAction s f p e = forwardVia s (frtOpen (s.entry e)) f p e := by
  rw [frameAction, h]

/-- DROP leaves the state as it is (R24). -/
theorem frameAction_of_drop {s : State} {e : Fin 96} (h : frtAction (s.entry e) = .drop) (f : Frame) (p : Port) :
    frameAction s f p e = s := by
  rw [frameAction, h]

/-- Without a template a frame is queued unchanged on the other port (R28). -/
theorem forwardVia_none (s : State) (f : Frame) (p : Port) (e : Fin 96) :
    forwardVia s none f p e = queueForwarded s p.other
      { frame := f, arrival := p, entry := some e, mark := frtCoalesce (s.entry e) } := rfl

/-- Settles O25: the command comes to the entry's action, and the tables it reads are those the frame found. -/
theorem passAndDropEntries : Obligations.PassAndDropEntries := by
  intro s a id data e hhandled p f u out
  have hout : out = .next (frameAction u f p e) := exec_frameHandledByFre_of_handledBy hhandled
  have hentry : u.entry e = s.entry e := atAction_entry s a f e e
  have hpass (h : frtAction (s.entry e) = .pass) : out = .next (forwardVia u (frtOpen (s.entry e)) f p e) := by
    rw [hout, frameAction_of_pass (hentry ▸ h), hentry]
  refine ⟨fun hdrop => ?_, fun haction hopen => ?_, fun k haction hopen => ?_⟩
  · rw [hout, frameAction_of_drop (hentry ▸ hdrop)]
  · rw [hpass haction, hopen, forwardVia_none, hentry]
  · rw [hpass haction, hopen]

end Sys2Proof.Proofs
end

