-- ==== Sys2Proof/Proofs/Terms.lean ====
section
/-! Interlock terms: the hysteresis of the relations (R73, R74), and what the combiners make of a term's conditions (R67,
R76). -/

namespace Sys2Proof.Proofs

open Sys2Proof Sys2Proof.Machine

/-! Hysteresis. -/

/-- A test read as a result: TRUE where it holds. -/
theorem ofBool_decide (p : Prop) [Decidable p] : Tri.ofBool (decide p) = if p then .tt else .ff := by
  simp only [Tri.ofBool, decide_eq_true_eq]

/-- A test read as a result, by the condition under which it fails: the rules give the way out of TRUE so. -/
theorem ofBool_decide_of_iff_not {p q : Prop} [Decidable p] [Decidable q] (h : p ↔ ¬q) :
    Tri.ofBool (decide p) = if q then .ff else .tt := by
  rw [ofBool_decide, if_congr h rfl rfl, ite_not]

/-- LT becomes TRUE below the limit (R73). -/
theorem afterWrite_lt_of_false (lo h hi v : Raw) :
    afterWrite .lt lo h hi .ff v = if v.toNat < lo.toNat then .tt else .ff :=
  ofBool_decide (v.toNat < lo.toNat)

/-- LT ceases to be TRUE only at the limit raised by the hysteresis (R73). -/
theorem afterWrite_lt_of_true (lo h hi v : Raw) :
    afterWrite .lt lo h hi .tt v = if lo.toNat + h.toNat ≤ v.toNat then .ff else .tt :=
  ofBool_decide_of_iff_not (p := v.toNat < lo.toNat + h.toNat) Nat.not_le.symm

/-- GE becomes TRUE only at the limit raised by the hysteresis (R73). -/
theorem afterWrite_ge_of_false (lo h hi v : Raw) :
    afterWrite .ge lo h hi .ff v = if lo.toNat + h.toNat ≤ v.toNat then .tt else .ff :=
  ofBool_decide (lo.toNat + h.toNat ≤ v.toNat)

/-- GE ceases to be TRUE below the limit (R73). -/
theorem afterWrite_ge_of_true (lo h hi v : Raw) :
    afterWrite .ge lo h hi .tt v = if v.toNat < lo.toNat then .ff else .tt :=
  ofBool_decide_of_iff_not (p := lo.toNat ≤ v.toNat) Nat.not_lt.symm

/-- INSIDE becomes TRUE between its limits (R74). -/
theorem afterWrite_inside_of_false (lo h hi v : Raw) :
    afterWrite .inside lo h hi .ff v = if lo.toNat ≤ v.toNat ∧ v.toNat ≤ hi.toNat then .tt else .ff := by
  rw [← ofBool_decide, Bool.decide_and]
  rfl

/-- INSIDE ceases to be TRUE outside its limits widened by the hysteresis (R74). -/
theorem afterWrite_inside_of_true (lo h hi v : Raw) :
    afterWrite .inside lo h hi .tt v =
      if v.toNat < lo.toNat - h.toNat ∨ hi.toNat + h.toNat < v.toNat then .ff else .tt := by
  have hwithin : (lo.toNat - h.toNat ≤ v.toNat ∧ v.toNat ≤ hi.toNat + h.toNat) ↔
      ¬(v.toNat < lo.toNat - h.toNat ∨ hi.toNat + h.toNat < v.toNat) := by
    rw [not_or, Nat.not_lt, Nat.not_lt]
  rw [← ofBool_decide_of_iff_not hwithin, Bool.decide_and]
  rfl

/-- Settles O34: one rule for each relation and each remembered result. -/
theorem hysteresisOfRelations : Obligations.HysteresisOfRelations := fun lo h hi v =>
  ⟨afterWrite_lt_of_false lo h hi v, afterWrite_lt_of_true lo h hi v, afterWrite_ge_of_false lo h hi v,
    afterWrite_ge_of_true lo h hi v, afterWrite_inside_of_false lo h hi v, afterWrite_inside_of_true lo h hi v⟩

/-! The combiners. -/

/-- The common form of both combiners: the result b outweighs UNKNOWN, and UNKNOWN outweighs the opposite result. -/
def combineBy (b : Bool) (rs : List Tri) : Tri :=
  if Tri.ofBool b ∈ rs then Tri.ofBool b else if .unknown ∈ rs then .unknown else Tri.ofBool !b

/-- Under ALL a FALSE outweighs (R76). -/
theorem combineAll_eq (rs : List Tri) : combineAll rs = combineBy false rs := by
  simp [combineAll, combineBy, Tri.ofBool]

/-- Under ANY a TRUE outweighs (R76). -/
theorem combineAny_eq (rs : List Tri) : combineAny rs = combineBy true rs := by
  simp [combineAny, combineBy, Tri.ofBool]

@[simp] theorem ofBool_ne_unknown (b : Bool) : Tri.ofBool b ≠ .unknown := by cases b <;> decide

@[simp] theorem ofBool_not_ne (b : Bool) : Tri.ofBool (!b) ≠ Tri.ofBool b := by cases b <;> decide

/-- A result is TRUE, FALSE or UNKNOWN: what is neither b nor UNKNOWN is the opposite of b. -/
theorem eq_ofBool_not_iff (b : Bool) (r : Tri) : r = Tri.ofBool (!b) ↔ r ≠ Tri.ofBool b ∧ r ≠ .unknown := by
  cases b <;> cases r <;> decide

/-- One outweighing result decides. -/
theorem combineBy_eq_ofBool_iff (b : Bool) (rs : List Tri) : combineBy b rs = Tri.ofBool b ↔ Tri.ofBool b ∈ rs := by
  unfold combineBy
  split
  case isTrue hb => simp [hb]
  case isFalse hb => split <;> simp [hb, (ofBool_ne_unknown b).symm]

/-- Without an outweighing result, one UNKNOWN decides. -/
theorem combineBy_eq_unknown_iff (b : Bool) (rs : List Tri) :
    combineBy b rs = .unknown ↔ Tri.ofBool b ∉ rs ∧ .unknown ∈ rs := by
  unfold combineBy
  split
  case isTrue hb => simp [hb]
  case isFalse hb => split <;> simp [*]

/-- The opposite result needs every condition. -/
theorem combineBy_eq_ofBool_not_iff (b : Bool) (rs : List Tri) :
    combineBy b rs = Tri.ofBool (!b) ↔ ∀ r ∈ rs, r = Tri.ofBool (!b) := by
  calc combineBy b rs = Tri.ofBool (!b)
      ↔ Tri.ofBool b ∉ rs ∧ .unknown ∉ rs := by
        rw [eq_ofBool_not_iff, Ne, Ne, combineBy_eq_ofBool_iff, combineBy_eq_unknown_iff]
        tauto
    _ ↔ ∀ r ∈ rs, r = Tri.ofBool (!b) := by
        simp only [eq_ofBool_not_iff, forall_and, List.forall_mem_ne']

/-- The combiner ALL (R76). -/
theorem combineAll_iff (rs : List Tri) :
    (combineAll rs = .tt ↔ ∀ r ∈ rs, r = .tt) ∧
    (combineAll rs = .unknown ↔ (∀ r ∈ rs, r ≠ .ff) ∧ ∃ r ∈ rs, r = .unknown) ∧
    (combineAll rs = .ff ↔ ∃ r ∈ rs, r = .ff) := by
  simp only [combineAll_eq, List.forall_mem_ne', exists_eq_right]
  exact ⟨combineBy_eq_ofBool_not_iff false rs, combineBy_eq_unknown_iff false rs, combineBy_eq_ofBool_iff false rs⟩

/-- The combiner ANY (R76). -/
theorem combineAny_iff (rs : List Tri) :
    (combineAny rs = .tt ↔ ∃ r ∈ rs, r = .tt) ∧
    (combineAny rs = .unknown ↔ (∀ r ∈ rs, r ≠ .tt) ∧ ∃ r ∈ rs, r = .unknown) ∧
    (combineAny rs = .ff ↔ ∀ r ∈ rs, r = .ff) := by
  simp only [combineAny_eq, List.forall_mem_ne', exists_eq_right]
  exact ⟨combineBy_eq_ofBool_iff true rs, combineBy_eq_unknown_iff true rs, combineBy_eq_ofBool_not_iff true rs⟩

/-! What a term combines. -/

/-- A condition list that can be read has the length asked for (R203). -/
theorem length_of_parseConds {img : Image20} {n pos : Nat} {cs : List Cond} (h : parseConds img n pos = some cs) :
    cs.length = n := by
  induction n generalizing pos cs with
  | zero =>
    obtain rfl : [] = cs := Option.some.inj h
    rfl
  | succ n ih =>
    unfold parseConds at h
    split at h
    case h_1 => cases h
    case h_2 c next _ =>
      split at h
      case isTrue =>
        obtain ⟨rest, hrest, rfl⟩ := Option.map_eq_some_iff.1 h
        rw [List.length_cons, ih hrest]
      case isFalse => cases h

/-- The count field has two bits and counts from one (R203). -/
theorem ittConds_length_le (img : Image20) : (ittConds img).length ≤ 4 := by
  unfold ittConds
  cases hparse : ittParse img with
  | none => exact Nat.zero_le 4
  | some cs =>
    have hlen : cs.length = field img 9 2 + 1 := length_of_parseConds hparse
    have hcount : field img 9 2 < 2 ^ 2 := Nat.mod_lt _ (Nat.two_pow_pos 2)
    rw [Option.getD_some]
    omega

/-- A VALID term has the conditions of its image (R67). -/
theorem conds_of_valid {t : Tables} {i : Fin 24} (h : isValid (t.itt.get i) = true) : t.conds i = ittConds (t.itt.get i) :=
  if_pos h

/-- A term that is not VALID has no conditions (R67). -/
theorem conds_of_not_valid {t : Tables} {i : Fin 24} (h : isValid (t.itt.get i) = false) : t.conds i = [] :=
  if_neg (Bool.eq_false_iff.1 h)

/-- A term has at most four conditions (R67). -/
theorem conds_length_le (t : Tables) (i : Fin 24) : (t.conds i).length ≤ 4 := by
  cases h : isValid (t.itt.get i) with
  | true => rw [conds_of_valid h]; exact ittConds_length_le _
  | false => rw [conds_of_not_valid h]; exact Nat.zero_le 4

/-- A term combines one result for each of its conditions. -/
@[simp] theorem condResults_length (s : State) (results : Vector Tri 24) (t : Fin 24) :
    (condResults s results t).length = (s.active.conds t).length := by
  simp [condResults]

/-- The result combined at a condition's place is that condition's, from what its place holds. -/
theorem condResults_getElem? {s : State} {t : Fin 24} {j : Fin 4} {c : Cond} (results : Vector Tri 24)
    (h : (s.active.conds t)[j.val]? = some c) :
    (condResults s results t)[j.val]? = some (condResult results ((s.ilk.mem.get t).get j) c) := by
  have hheld : (s.ilk.mem.get t).toList.getD j.val .unknown = (s.ilk.mem.get t).get j := by
    rw [List.getD_eq_getElem _ _ (by simp)]
    rfl
  rw [condResults, List.getElem?_map, List.getElem?_zipIdx, h, ← hheld]
  simp

/-- A term that is not VALID is FALSE (R67). -/
theorem termResult_of_not_valid {s : State} {t : Fin 24} (h : isValid (s.active.itt.get t) = false)
    (results : Vector Tri 24) : termResult s results t = .ff :=
  if_neg (Bool.eq_false_iff.1 h)

/-- A VALID term's result is what its combiner makes of its conditions' results (R76). -/
theorem termResult_of_valid {s : State} {t : Fin 24} (h : isValid (s.active.itt.get t) = true) (results : Vector Tri 24) :
    termResult s results t =
      if ittAny (s.active.itt.get t) then combineAny (condResults s results t) else combineAll (condResults s results t) :=
  if_pos h

/-- Settles O36: the combiners by their common form, and what they combine by the place of each condition. -/
theorem combinersOfTerms : Obligations.CombinersOfTerms := by
  refine ⟨fun rs => ?_, fun s results t => ⟨fun hvalid hall => ?_, fun hvalid hany => ?_, fun hnot => ?_,
    condResults_length s results t, conds_length_le s.active t, fun j c hc => ?_⟩⟩
  · obtain ⟨hallTrue, hallUnknown, hallFalse⟩ := combineAll_iff rs
    exact ⟨hallTrue, hallUnknown, hallFalse, combineAny_iff rs⟩
  · rw [termResult_of_valid hvalid, if_neg (Bool.eq_false_iff.1 hall)]
  · rw [termResult_of_valid hvalid, if_pos hany]
  · exact ⟨termResult_of_not_valid hnot results, conds_of_not_valid hnot⟩
  · rw [condResults_getElem? results hc]
    cases c <;> rfl

end Sys2Proof.Proofs
end

