-- ==== Sys2Proof/Proofs/DriveChannels.lean ====
section
/-! Drive channels: engage requests by the channel's state (R98, R99, R101), the ratio check (R104), and the rise of a permit
term (R111). -/

namespace Sys2Proof.Proofs

open Sys2Proof Sys2Proof.Machine Sys2Proof.Safety

/-! The checks of an engage request in DISENGAGED. -/

/-- Check 2 asks MAIN and ROLL for each other, and AUX for nobody (R99). -/
theorem partnerActive_iff (s : State) (c : Channel) :
    partnerActive s c = true ↔
      (c = .main ∧ s.drv.roll.state ≠ .disengaged) ∨ (c = .roll ∧ s.drv.main.state ≠ .disengaged) := by
  cases c <;> simp [partnerActive]

/-- Check 3 asks for a permit term that is there and TRUE (R99). -/
theorem permitted_iff (s : State) (c : Channel) :
    permitted s c = true ↔ ∃ t, (s.active.drive c).permit = some t ∧ s.ilk.terms.get t = .tt := by
  unfold permitted
  split
  case h_1 habsent => simp [habsent]
  case h_2 t hpermit => simp [hpermit]

/-- Check 1 comes before the others (R99). -/
theorem engageRefusal_of_conflict {s : State} (hmode : s.ilk.mode = .conflict) (c : Channel) :
    engageRefusal s c = some .conflict :=
  if_pos hmode

/-- Check 2 comes next (R99). -/
theorem engageRefusal_of_partner {s : State} {c : Channel} (hmode : s.ilk.mode ≠ .conflict)
    (hpartner : partnerActive s c = true) : engageRefusal s c = some .exclusive := by
  rw [engageRefusal, if_neg hmode, if_pos hpartner]

/-- Behind checks 1 and 2 the permit term alone decides (R99). -/
theorem engageRefusal_of_no_partner {s : State} {c : Channel} (hmode : s.ilk.mode ≠ .conflict)
    (hpartner : ¬partnerActive s c = true) :
    engageRefusal s c = if permitted s c = true then none else some .notPermitted := by
  rw [engageRefusal, if_neg hmode, if_neg hpartner]
  cases permitted s c <;> rfl

/-! Refusals. -/

/-- A refusal outside FAULTED is the last outcome of its channel, and is raised (R101). -/
theorem refuse_of_ne_faulted {s : State} {c : Channel} (h : (s.chan c).state ≠ .faulted) (why : RefuseReason) :
    refuse s c why =
      (s.setChan c { s.chan c with outcome := some (.refused why) }).raise (refuseRaise s c why) := by
  rw [refuse, if_neg h]

/-- A refusal in FAULTED is raised and leaves the channel as it is (R101). -/
theorem refuse_of_faulted {s : State} {c : Channel} (h : (s.chan c).state = .faulted) (why : RefuseReason) :
    refuse s c why = s.raise (refuseRaise s c why) := by
  rw [refuse, if_pos h]

/-! An engage request by the channel's state. -/

/-- In DISENGAGED the first check that fails refuses the request (R99, R101). -/
theorem engage_of_refusal {s : State} {c : Channel} {why : RefuseReason} (hstate : (s.chan c).state = .disengaged)
    (hrefusal : engageRefusal s c = some why) (o : Origin) :
    engage s c o =
      ((s.setChan c { s.chan c with outcome := some (.refused why) }).raise (refuseRaise s c why), .refused why) := by
  have hnotFaulted : (s.chan c).state ≠ .faulted := by rw [hstate]; decide
  simp only [engage, hstate, hrefusal, refuse_of_ne_faulted hnotFaulted]

/-- In DISENGAGED a request that no check refuses is accepted (R99). -/
theorem engage_of_no_refusal {s : State} {c : Channel} (hstate : (s.chan c).state = .disengaged)
    (hrefusal : engageRefusal s c = none) (o : Origin) : engage s c o = (accept s c o, .ok) := by
  simp only [engage, hstate, hrefusal]

/-- On the way to ENGAGED and in it a request is satisfied already (R98). -/
theorem engage_of_satisfied {s : State} {c : Channel}
    (hstate : (s.chan c).state = .shifting ∨ (s.chan c).state = .verifying ∨ (s.chan c).state = .engaged) (o : Origin) :
    engage s c o = (s, .ok) := by
  rcases hstate with h | h | h <;> simp only [engage, h]

/-- In RELEASING a request is refused as BUSY, which is then the last outcome (R98, R101). -/
theorem engage_of_releasing {s : State} {c : Channel} (hstate : (s.chan c).state = .releasing) (o : Origin) :
    engage s c o =
      ((s.setChan c { s.chan c with outcome := some (.refused .busy) }).raise (refuseRaise s c .busy), .busy) := by
  have hnotFaulted : (s.chan c).state ≠ .faulted := by rw [hstate]; decide
  simp only [engage, hstate, refuse_of_ne_faulted hnotFaulted]

/-- In FAULTED a request is refused as BUSY and the last outcome stays (R98, R101). -/
theorem engage_of_faulted {s : State} {c : Channel} (hstate : (s.chan c).state = .faulted) (o : Origin) :
    engage s c o = (s.raise (refuseRaise s c .busy), .busy) := by
  simp only [engage, hstate, refuse_of_faulted hstate]

/-- Settles O40: the checks in their order give the four outcomes in DISENGAGED, and the other states have one each. The
statement writes out, reason by reason, the raise that `refuseRaise` computes. -/
theorem engageRequestsAreChecked : Obligations.EngageRequestsAreChecked := by
  intro s c o r d raised noted partner permit
  have hpartner : partnerActive s c = true ↔ partner := partnerActive_iff s c
  have hpermit : permitted s c = true ↔ permit := permitted_iff s c
  refine ⟨fun hstate => ⟨fun hconflict => ?_, fun hmode hactive => ?_, fun hmode hidle hnot => ?_,
      fun hmode hidle hallowed => ?_⟩,
    fun hstate => engage_of_satisfied hstate o, fun hstate => engage_of_releasing hstate o,
    fun hstate => engage_of_faulted hstate o⟩
  · exact engage_of_refusal hstate (engageRefusal_of_conflict hconflict c) o
  · exact engage_of_refusal hstate (engageRefusal_of_partner hmode (hpartner.2 hactive)) o
  · have hrefusal : engageRefusal s c = some .notPermitted := by
      rw [engageRefusal_of_no_partner hmode (hidle ∘ hpartner.1), if_neg (hnot ∘ hpermit.1)]
    exact engage_of_refusal hstate hrefusal o
  · have haccept : engageRefusal s c = none := by
      rw [engageRefusal_of_no_partner hmode (hidle ∘ hpartner.1), if_pos (hpermit.2 hallowed)]
    exact engage_of_no_refusal hstate haccept o

/-! The ratio check. -/

/-- The window of the ratio check, as inequalities of exact products (R104). -/
theorem ratioIn_iff (low high i o : Nat) :
    ratioIn low high i o = true ↔ 0 < i ∧ low * i ≤ o * 256 ∧ o * 256 ≤ high * i := by
  simp [ratioIn, and_assoc]

/-- A channel without speed slots has no ratio check (R104). -/
theorem ratioHolds_of_no_speeds {d : DriveCfg} (h : d.speeds = none) (s : State) : ratioHolds s d = true := by
  rw [ratioHolds, h]

/-- The ratio check asks for both speed slots FRESH and their values in the window (R104). -/
theorem ratioHolds_iff_of_speeds {d : DriveCfg} {a b : Fin 32} (h : d.speeds = some (a, b)) (s : State) :
    ratioHolds s d = true ↔ (s.slot a).fresh = .fresh ∧ (s.slot b).fresh = .fresh ∧
      ratioIn d.low d.high (s.slot a).value.toNat (s.slot b).value.toNat = true := by
  rw [ratioHolds, h]
  simp [and_assoc]

/-- Settles O42: the slots' freshness from the check, the inequalities from its window. -/
theorem ratioCheckIsExact : Obligations.RatioCheckIsExact := by
  refine fun s d => ⟨fun hnone => ratioHolds_of_no_speeds hnone s, fun a b hspeeds => ?_⟩
  rw [ratioHolds_iff_of_speeds hspeeds, ratioIn_iff]

/-! The rise of a permit term. -/

/-- In RUN a command does what its block does. -/
theorem inRun_of_running {s : State} (h : Running s) (k : State → State) : s.inRun k = k s := if_pos h

/-- A rise at DRV is taken and does nothing (R111). -/
theorem exec_permitTermRise_of_running {s : State} (h : Running s) (t : Fin 24) :
    exec (.permitTermRise t) s = .next (s.taken (.permitTermRise t)) := by
  have hreceiver : receiver (.permitTermRise t) ≠ none := by rw [receiver]; exact Option.some_ne_none _
  calc exec (.permitTermRise t) s
      = .next (s.inRun (takeEvent (.permitTermRise t))) := exec_takeEvent _ s hreceiver
    _ = .next (takeEvent (.permitTermRise t) s) := by rw [inRun_of_running h]
    _ = .next (s.taken (.permitTermRise t)) := rfl

/-- Settles O43: the taking leaves DRV's state, and check 3 reads the term itself. -/
theorem permitRiseLeavesChannels : Obligations.PermitRiseLeavesChannels := fun s t hrun =>
  ⟨exec_permitTermRise_of_running hrun t, taken_drv s _, permitted_iff s⟩

end Sys2Proof.Proofs
end

