-- ==== Sys2Proof/Proofs/Ceilings.lean ====
section
/-! The target ceiling of CSU (R149, R150). -/

namespace Sys2Proof.Proofs

open Sys2Proof Sys2Proof.Machine

/-- The cases of R149, mode by mode: a mode without pumping idles, and a pumping mode idles without its own drive. -/
theorem idles_iff (c : CsuRec) :
    idles c = true ↔ c.mode = .road ∨ c.mode = .parked ∨ c.mode = .conflict ∨ c.sup = .lapsed ∨
      (c.mode = .pumpStatic ∧ c.main ≠ .engaged) ∨ (c.mode = .pumpRoll ∧ c.roll ≠ .engaged) ∨
      (c.supply = .tank ∧ (c.band = .empty ∨ c.band = .unknown)) := by
  cases hmode : c.mode with
  | road | parked | conflict => simp [idles, hmode]
  | pumpStatic | pumpRoll => simp [idles, hmode, or_assoc]

/-- An idling CSU has the target IDLE_CEIL (R149). -/
theorem targetOf_of_idles {c : CsuRec} (h : idles c = true) (t : Tables) : targetOf t c = t.idleCeil := if_pos h

/-- Past the cases of R149, only a LOW band on the tank supply limits the pumping mode's ceiling (R150). -/
theorem targetOf_of_not_idles {c : CsuRec} (h : ¬idles c = true) (t : Tables) :
    targetOf t c = if c.supply = .tank ∧ c.band = .low then lesser (pumpingCeil t c.mode) t.lowTankCeil
      else pumpingCeil t c.mode :=
  if_neg h

/-- Settles O51: R149's cases are those in which CSU idles, and past them the tank's band decides by R150. -/
theorem targetCeilingCases : Obligations.TargetCeilingCases := by
  intro t c pump idle
  have hidles : idles c = true ↔ idle := idles_iff c
  refine ⟨fun hidle => targetOf_of_idles (hidles.2 hidle) t, fun hpumping hnotLow => ?_, fun hpumping htank hlow => ?_⟩
  · calc targetOf t c
        = _ := targetOf_of_not_idles (hpumping ∘ hidles.1) t
      _ = pumpingCeil t c.mode := if_neg hnotLow
  · calc targetOf t c
        = _ := targetOf_of_not_idles (hpumping ∘ hidles.1) t
      _ = lesser (pumpingCeil t c.mode) t.lowTankCeil := if_pos ⟨htank, hlow⟩

end Sys2Proof.Proofs
end

