-- ==== Sys2Proof/Proofs/ActiveTables.lean ====
section
/-! The active tables: which operations replace them and by what, and what the checks of R187 say of the records of tables that
pass them all (R33, R70, R189). -/

namespace Sys2Proof.Proofs

open Sys2Proof Sys2Proof.Machine Sys2Proof.Safety

/-! The operations that leave the active set as it is. -/

@[simp] theorem queueForwarded_active (s : State) (p : Port) (q : ForwardRequest) :
    (queueForwarded s p q).active = s.active := by
  obtain ⟨_, _, _, h⟩ := queueForwarded_frame s p q
  rw [h]

@[simp] theorem queuePart_active (s : State) (p : Port) (f : Frame) : (queuePart s p f).active = s.active := by
  obtain ⟨_, _, h⟩ := queuePart_frame s p f
  rw [h]

@[simp] theorem attemptEnd_active (s : State) (p : Port) (b : Bool) : (attemptEnd s p b).active = s.active := by
  obtain ⟨_, _, _, h⟩ := attemptEnd_frame s p b
  rw [h]

@[simp] theorem ageExpiry_active (s : State) (p : Port) (i : Nat) : (ageExpiry s p i).active = s.active := by
  obtain ⟨_, _, _, _, h⟩ := ageExpiry_frame s p i
  rw [h]

@[simp] theorem recover_active (s : State) (p : Port) : (recover s p).active = s.active := by
  obtain ⟨_, _, _, h⟩ := recover_frame s p
  rw [h]

@[simp] theorem excTake_active (s : State) (r : Raise) : (excTake s r).active = s.active := by
  obtain ⟨_, _, _, _, h⟩ := excTake_frame s r
  rw [h]

@[simp] theorem maskChange_active (s : State) (before : BitVec 18) : (maskChange s before).active = s.active := by
  obtain ⟨_, _, h⟩ := maskChange_frame s before
  rw [h]

@[simp] theorem enter_active (s : State) (c : Channel) (r : ChannelRec) : (enter s c r).active = s.active := by
  obtain ⟨_, _, _, h⟩ := enter_frame' s c r
  rw [h]

/-- A reset keeps the active set until start-up replaces it (log 7). -/
@[simp] theorem powerUp_active (s : State) : (powerUp s).active = s.active := by
  simp only [powerUp]
  split <;> rfl

@[simp] theorem lineRelease_active (s : State) : (lineRelease s).active = s.active := by
  simp only [lineRelease]
  split
  · split <;> rfl
  · rfl

/-! The two operations that replace it. -/

/-- A COMMIT makes the shadow set active, retagged with no record failing (R191). -/
theorem activate_active (s : State) : (activate s).active = s.mgt.shadow.retagged [] := rfl

/-- The end of START makes the stored tables active, or the fallback configuration (R197, R198). -/
theorem endStart_active (s : State) (good : Bool) :
    (endStart s good).active = if good then s.sys.store.tables else Tables.fallback := by
  obtain ⟨_, _, _, _, _, _, _, _, _, _, _, h⟩ := endStart_frame s good
  rw [h]

/-- The tables of an image that passes its check pass theirs (R197). -/
theorem tables_sound_of_good {m : StoredImage} (h : m.good = true) : m.tables.sound = true := by
  rw [StoredImage.good, Bool.and_eq_true] at h
  exact h.2

/-! The invariant. -/

/-- The invariant speaks of the active set alone. -/
theorem activeSound_of_active_eq {s u : State} (h : u.active = s.active) (hs : ActiveSound s) : ActiveSound u := by
  rw [ActiveSound, h]
  exact hs

/-- A COMMIT whose records all pass makes sound tables active (R189, R191). -/
theorem activeSound_activate {s : State} (h : s.mgt.shadow.failing = []) : ActiveSound (activate s) := by
  rw [ActiveSound, activate_active]
  exact sound_retagged s.mgt.shadow h

/-- START ends with sound tables active: those of a good image, or the fallback configuration (R197, R198). -/
theorem activeSound_endStart {s : State} {good : Bool} (h : good = true → s.sys.store.good = true) :
    ActiveSound (endStart s good) := by
  rw [ActiveSound, endStart_active]
  split
  case isTrue hgood => exact tables_sound_of_good (h hgood)
  case isFalse => exact fallback_sound

/-- Every elementary operation keeps the invariant: only `activate` and `endStart` replace the active set. Where the hypothesis
itself is the proof, the operation replaces other parts of the state outright. -/
theorem closed_activeSound : Closed ActiveSound where
  plain _ _ _ _ _ _ _ hs := hs
  sys _ _ _ _ hs := hs
  queueForwarded s p q _ hs := activeSound_of_active_eq (queueForwarded_active s p q) hs
  queuePart s p f _ hs := activeSound_of_active_eq (queuePart_active s p f) hs
  attemptEnd s p b _ hs := activeSound_of_active_eq (attemptEnd_active s p b) hs
  ageExpiry s p i _ hs := activeSound_of_active_eq (ageExpiry_active s p i) hs
  recover s p _ hs := activeSound_of_active_eq (recover_active s p) hs
  reissue _ _ _ hs := hs
  unhold _ _ _ _ hs := hs
  supersede _ _ _ _ _ hs := hs
  place _ _ _ _ _ hs := hs
  excTake s r _ hs := activeSound_of_active_eq (excTake_active s r) hs
  readHighest _ _ hs := hs
  clearFlags _ _ hs := hs
  emptyCapture _ _ hs := hs
  enter s c r _ _ hs := activeSound_of_active_eq (enter_active s c r) hs
  outcome s c _ _ hs := activeSound_of_active_eq (setChan_active s c _) hs
  tnkTake _ _ _ _ hs := hs
  runDry _ _ hs := hs
  csuFinish _ _ _ hs := hs
  activate s _ hpass _ := activeSound_of_active_eq (maskChange_active (activate s) _) (activeSound_activate hpass)
  powerUp s hs := activeSound_of_active_eq (powerUp_active s) hs
  powerDown _ hs := hs
  lineReset _ hs := hs
  lineRelease s hs := activeSound_of_active_eq (lineRelease_active s) hs
  managementReset _ _ hs := hs
  endStart _ _ _ hgood _ := activeSound_endStart hgood

/-- Every step keeps the invariant; it says nothing of the queue of commands. -/
theorem step_keeps_activeSound {s t : State} (hs : ActiveSound s) (h : step s = .next t) : ActiveSound t :=
  closed_activeSound.step_keeps (fun _ _ hs => hs) hs h

/-- Reset leaves the fallback configuration active (log 7). -/
theorem activeSound_reset : ActiveSound State.reset := fallback_sound

/-! Records of sound tables. -/

section
variable {t : Tables}

/-- A table of images of which none is tagged REJECTED, read at an index. -/
theorem tagOf_get_ne_rejected {n : Nat} {v : Vector Image20 n} (h : v.toList.all notRejected = true) (i : Fin n) :
    tagOf (v.get i) ≠ .rejected := by
  have hmem : v.get i ∈ v.toList := Vector.mem_toList_iff.2 (Vector.getElem_mem i.isLt)
  simpa [notRejected] using List.all_eq_true.1 h _ hmem

/-- Sound tables hold no REJECTED record (R189). -/
theorem tags_ne_rejected (h : t.sound = true) :
    (∀ e, tagOf (t.frt.get e) ≠ .rejected) ∧ (∀ k, tagOf (t.rtt.get k) ≠ .rejected) ∧
      (∀ i, tagOf (t.itt.get i) ≠ .rejected) ∧ (∀ c, tagOf (t.drives.get c) ≠ .rejected) ∧
      ∀ k, tagOf (t.tanks.get k) ≠ .rejected := by
  simp only [Tables.sound, Tables.noRejected, Bool.and_eq_true] at h
  obtain ⟨-, ⟨⟨⟨hfrt, hrtt⟩, hitt⟩, hdrives⟩, htanks⟩ := h
  exact ⟨tagOf_get_ne_rejected hfrt, tagOf_get_ne_rejected hrtt, tagOf_get_ne_rejected hitt,
    tagOf_get_ne_rejected hdrives, tagOf_get_ne_rejected htanks⟩

/-- A record in use is VALID or REJECTED (R187). -/
theorem inUse_iff (img : Image20) : inUse img = true ↔ isValid img = true ∨ tagOf img = .rejected := by
  rw [inUse, Bool.or_eq_true, isValid, beq_iff_eq, beq_iff_eq]

/-- A VALID record is judged by its fields (R187). -/
theorem judged_of_valid {img : Image20} (h : isValid img = true) (ok : Bool) : judged img ok = ok := by
  have htag : tagOf img = .valid := beq_iff_eq.1 h
  rw [judged, htag]

/-- In sound tables the terms in use are the VALID ones. -/
theorem valid_of_inUse (h : t.sound = true) {j : Fin 24} (huse : inUse (t.itt.get j) = true) :
    isValid (t.itt.get j) = true := by
  obtain ⟨-, -, hterms, -⟩ := tags_ne_rejected h
  exact ((inUse_iff _).1 huse).resolve_right (hterms j)

/-- A term that a judgement lets be named is in use (R187). -/
theorem inUse_of_termNamed {passes : List Bool} {j : Fin 24} (h : termNamed t passes j = true) :
    inUse (t.itt.get j) = true := by
  rw [termNamed, Bool.and_eq_true] at h
  exact h.2

/-- The gate term check of a GATE or HOLD entry: there is a gate term, and it may be named (R33). -/
theorem frtTerm_of_gateTermOk {passes : List Bool} {img : Image20} (h : gateTermOk t passes img = true)
    (haction : frtAction img = .gate ∨ frtAction img = .hold) :
    ∃ j, frtTerm img = some j ∧ termNamed t passes j = true := by
  cases hterm : frtTerm img with
  | none => rcases haction with ha | ha <;> simp [gateTermOk, ha, hterm] at h
  | some j => rcases haction with ha | ha <;> exact ⟨j, rfl, by simpa [gateTermOk, ha, hterm] using h⟩

/-- A VALID entry that passes passes the gate term check (R33). -/
theorem gateTermOk_of_frtOk {passes : List Bool} {img : Image20} (h : frtOk t passes img = true)
    (hvalid : isValid img = true) : gateTermOk t passes img = true := by
  rw [frtOk, judged_of_valid hvalid] at h
  simp only [Bool.and_eq_true] at h
  obtain ⟨⟨⟨⟨⟨-, hgate⟩, -⟩, -⟩, -⟩, -⟩ := h
  exact hgate

/-- In sound tables a GATE or HOLD entry names a VALID term (R189). -/
theorem gate_names_valid_term (h : t.sound = true) {e : Fin 96} (hvalid : isValid (t.frt.get e) = true)
    (haction : frtAction (t.frt.get e) = .gate ∨ frtAction (t.frt.get e) = .hold) :
    ∃ j, frtTerm (t.frt.get e) = some j ∧ isValid (t.itt.get j) = true := by
  have hpass : frtOk t (ittPasses t 24) (t.frt.get e) = true := passes_of_sound t h (frt_judged t e)
  obtain ⟨j, hterm, hnamed⟩ := frtTerm_of_gateTermOk (gateTermOk_of_frtOk hpass hvalid) haction
  exact ⟨j, hterm, valid_of_inUse h (inUse_of_termNamed hnamed)⟩

/-- Every condition of a VALID term that passes is in order (R70). -/
theorem condOk_of_ittOk {img : Image20} {i : Nat} {ok : Nat → Bool} (h : ittOk img i ok = true)
    (hvalid : isValid img = true) {c : Cond} (hc : c ∈ ittConds img) : condOk i ok c = true := by
  rw [ittOk, judged_of_valid hvalid] at h
  unfold ittConds at hc
  cases hparse : ittParse img with
  | none => rw [hparse] at h; exact absurd h Bool.false_ne_true
  | some cs =>
    rw [hparse] at h hc
    exact List.all_eq_true.1 h c hc

/-- In sound tables a TERM condition names a lower VALID term (R189). -/
theorem cond_names_valid_term (h : t.sound = true) {i j : Fin 24} (hc : Cond.term j ∈ t.conds i) :
    j < i ∧ isValid (t.itt.get j) = true := by
  refine ⟨conds_lower t h i j hc, valid_of_inUse h ?_⟩
  have hpass := passes_of_sound t h (itt_judged t i)
  rw [ittPasses_getD t i 24 i.isLt (Nat.le_refl _)] at hpass
  cases hvalid : isValid (t.itt.get i) with
  | false => rw [conds_of_not_valid hvalid] at hc; exact absurd hc List.not_mem_nil
  | true =>
    rw [conds_of_valid hvalid] at hc
    have hok := condOk_of_ittOk hpass hvalid hc
    simp only [condOk, Bool.and_eq_true, dif_pos j.isLt] at hok
    obtain ⟨-, -, huse⟩ := hok
    exact huse

/-- A VALID template that passes and carries the reissue flag bounds their number (R33). -/
theorem reissueCount_le_of_rttOk {img : Image20} (h : rttOk t img = true) (hvalid : isValid img = true)
    (hflag : rttReissue img = true) : reissueCount t ≤ 4 := by
  rw [rttOk, judged_of_valid hvalid] at h
  simp only [Bool.and_eq_true] at h
  obtain ⟨-, hcount⟩ := h
  simpa [hflag] using hcount

/-- A count over the indices of a vector is one over its entries. -/
theorem countP_finRange_get {α : Type} {n : Nat} (v : Vector α n) (p : α → Bool) :
    ((List.finRange n).countP fun i => p (v.get i)) = v.toList.countP p := by
  have hlist : (List.finRange n).map v.get = v.toList :=
    List.ext_getElem (by simp) fun i _ _ => by simp [Vector.get]
  rw [← hlist, List.countP_map]
  rfl

/-- How many VALID templates carry the reissue flag, as R189 counts them. -/
def validReissueCount (t : Tables) : Nat :=
  (List.finRange 16).countP fun k => isValid (t.rtt.get k) && rttReissue (t.rtt.get k)

/-- The VALID templates with the reissue flag are among those that R33 counts. -/
theorem validReissueCount_le (t : Tables) : validReissueCount t ≤ reissueCount t := by
  rw [validReissueCount, countP_finRange_get t.rtt fun img => isValid img && rttReissue img, reissueCount,
    ← List.countP_eq_length_filter]
  refine List.countP_mono_left fun img _ h => ?_
  obtain ⟨hvalid, hflag⟩ := Bool.and_eq_true_iff.1 h
  rw [(inUse_iff img).2 (.inl hvalid), hflag, Bool.and_self]

/-- In sound tables at most four VALID templates carry the reissue flag: one of them, where there is one, is judged by R33's
count (R189). -/
theorem validReissueCount_le_four (h : t.sound = true) : validReissueCount t ≤ 4 := by
  rcases Nat.eq_zero_or_pos (validReissueCount t) with hnone | hsome
  · rw [hnone]; exact Nat.zero_le 4
  · obtain ⟨k, -, hk⟩ := List.countP_pos_iff.1 hsome
    obtain ⟨hvalid, hflag⟩ := Bool.and_eq_true_iff.1 hk
    have hpass : rttOk t (t.rtt.get k) = true := passes_of_sound t h (rtt_judged t k)
    exact (validReissueCount_le t).trans (reissueCount_le_of_rttOk hpass hvalid hflag)

end

/-- Settles O59: the step lemma from `closed_activeSound`, the consequences from the judgements of each record. -/
theorem activeTablesStaySound : Obligations.ActiveTablesStaySound := by
  refine ⟨fun s t => step_keeps_activeSound, activeSound_reset, fun s hsound => ?_⟩
  obtain ⟨hfrt, hrtt, hitt, hdrives, htanks⟩ := tags_ne_rejected hsound
  exact ⟨hfrt, hrtt, hitt, hdrives, htanks, fun _ => gate_names_valid_term hsound,
    fun _ _ => cond_names_valid_term hsound, validReissueCount_le_four hsound⟩

end Sys2Proof.Proofs
end

section
/-! The state that every reset leaves (R194), and the invariants of the drive states and the output lines (R95, R100, R137,
R140, R166). -/

namespace Sys2Proof.Proofs

open Sys2Proof Sys2Proof.Machine Sys2Proof.Safety

/-! The blocks at rest. -/

/-- The lines, the ports and the blocks are as a reset leaves them: what the part holds outside RUN. -/
def AtRest (s : State) : Prop :=
  s.outs = { } ∧ PortReset s.cp ∧ PortReset s.bp ∧ s.exc = { } ∧ s.fre = { } ∧ s.drv = { } ∧ s.tnk = { }

/-- The rule of rest outside RUN in terms of `AtRest`. -/
theorem quietOutsideRun_iff (s : State) : QuietOutsideRun s ↔ (s.sys.phase ≠ .run → AtRest s) := Iff.rfl

/-- Ports as a reset makes them hold their reset values. -/
theorem portReset_default (since : Nat) : PortReset { since := since } := ⟨rfl, rfl, rfl, rfl, rfl⟩

/-- A reset leaves every block at rest (R194). -/
theorem atRest_applyReset (s : State) : AtRest (applyReset s) :=
  ⟨rfl, portReset_default 0, portReset_default 0, rfl, rfl, rfl, rfl⟩

/-- The release of a reset leaves every block as it is (R197). -/
theorem atRest_beginStart {s : State} (h : AtRest s) : AtRest (beginStart s) := by
  obtain ⟨houts, hcp, hbp, hexc, hfre, hdrv, htnk⟩ := h
  exact ⟨houts, hcp, hbp, hexc, hfre, hdrv, htnk⟩

theorem atRest_powerUp (s : State) : AtRest (powerUp s) := by
  simp only [powerUp]
  split
  · exact atRest_applyReset s
  · exact atRest_beginStart (atRest_applyReset s)

theorem atRest_powerDown (s : State) : AtRest (powerDown s) := atRest_applyReset s

theorem atRest_lineReset (s : State) : AtRest (lineReset s) := atRest_applyReset s

theorem atRest_managementReset (s : State) : AtRest (managementReset s) := atRest_beginStart (atRest_applyReset s)

/-- The release of the reset line changes the controller and the time at which the ports begin to receive. -/
theorem lineRelease_frame (s : State) :
    ∃ sys x y, lineRelease s = { s with sys := sys, cp := { s.cp with since := x }, bp := { s.bp with since := y } } := by
  simp only [lineRelease]
  split
  · split <;> exact ⟨_, _, _, rfl⟩
  · exact ⟨_, _, _, rfl⟩

/-- The end of START leaves the lines, the drives, the exceptions and the Hold Buffer as they are; of TNK it replaces the tank
records, and of a port its rate (R197, R198). -/
theorem endStart_keeps (s : State) (good : Bool) :
    (endStart s good).outs = s.outs ∧ (endStart s good).drv = s.drv ∧ (endStart s good).exc = s.exc ∧
      (endStart s good).fre = s.fre ∧
      (∃ w a b, (endStart s good).tnk = { s.tnk with water := w, foamA := a, foamB := b }) ∧
      (∃ x, (endStart s good).cp = { s.cp with rate := x }) ∧ ∃ x, (endStart s good).bp = { s.bp with rate := x } := by
  obtain ⟨_, _, _, _, _, _, _, _, _, _, _, h⟩ := endStart_frame s good
  rw [h]
  exact ⟨rfl, rfl, rfl, rfl, ⟨_, _, _, rfl⟩, ⟨_, rfl⟩, _, rfl⟩

/-! MAIN and ROLL are exclusive. -/

/-- The rule speaks of DRV's state alone. -/
theorem drivesExclusive_of_drv_eq {s u : State} (h : u.drv = s.drv) (hs : DrivesExclusive s) : DrivesExclusive u := by
  rw [DrivesExclusive, h]; exact hs

theorem drivesExclusive_of_atRest {s : State} (h : AtRest s) : DrivesExclusive s := by
  obtain ⟨-, -, -, -, -, hdrv, -⟩ := h
  exact .inl (by rw [hdrv])

/-- A context joins MAIN or ROLL away from DISENGAGED only where the channel was so already, or its partner is at rest. -/
theorem drivesExclusive_setChan {s : State} {c : Channel} {r : ChannelRec}
    (hr : r.state = .disengaged ∨ (s.chan c).state ≠ .disengaged ∨ partnerActive s c = false) (hs : DrivesExclusive s) :
    DrivesExclusive (s.setChan c r) := by
  cases c with
  | main =>
    rcases hr with hrest | haway | hpartner
    · exact .inl hrest
    · exact .inr (hs.resolve_left haway)
    · have hroll : s.drv.roll.state = .disengaged := by simpa [partnerActive] using hpartner
      exact .inr hroll
  | roll =>
    rcases hr with hrest | haway | hpartner
    · exact .inr hrest
    · exact .inl (hs.resolve_right haway)
    · have hmain : s.drv.main.state = .disengaged := by simpa [partnerActive] using hpartner
      exact .inl hmain
  | aux => exact hs

@[simp] theorem enter_drv (s : State) (c : Channel) (r : ChannelRec) : (enter s c r).drv = (s.setChan c r).drv := by
  obtain ⟨_, h⟩ := enter_frame s c r
  rw [h]; rfl

/-- Every elementary operation keeps MAIN and ROLL exclusive: a channel leaves DISENGAGED by `enter` alone. -/
theorem closed_drivesExclusive : Closed DrivesExclusive where
  plain _ _ _ _ _ _ _ hs := hs
  sys _ _ _ _ hs := hs
  queueForwarded s p q _ hs := by obtain ⟨_, _, _, h⟩ := queueForwarded_frame s p q; rw [h]; exact hs
  queuePart s p f _ hs := by obtain ⟨_, _, h⟩ := queuePart_frame s p f; rw [h]; exact hs
  attemptEnd s p b _ hs := by obtain ⟨_, _, _, h⟩ := attemptEnd_frame s p b; rw [h]; exact hs
  ageExpiry s p i _ hs := by obtain ⟨_, _, _, _, h⟩ := ageExpiry_frame s p i; rw [h]; exact hs
  recover s p _ hs := by obtain ⟨_, _, _, h⟩ := recover_frame s p; rw [h]; exact hs
  reissue _ _ _ hs := hs
  unhold _ _ _ _ hs := hs
  supersede _ _ _ _ _ hs := hs
  place _ _ _ _ _ hs := hs
  excTake s r _ hs := by obtain ⟨_, _, _, _, h⟩ := excTake_frame s r; rw [h]; exact hs
  readHighest _ _ hs := hs
  clearFlags _ _ hs := hs
  emptyCapture _ _ hs := hs
  enter s c r _ hr hs := drivesExclusive_of_drv_eq (enter_drv s c r) (drivesExclusive_setChan hr hs)
  outcome s c o _ hs := by
    refine drivesExclusive_setChan ?_ hs
    rcases eq_or_ne (s.chan c).state .disengaged with hrest | haway
    · exact .inl hrest
    · exact .inr (.inl haway)
  tnkTake _ _ _ _ hs := hs
  runDry _ _ hs := hs
  csuFinish _ _ _ hs := hs
  activate s _ _ hs := by
    obtain ⟨_, _, hmask⟩ := maskChange_frame (activate s) s.active.mask
    obtain ⟨_, _, hactivate⟩ := activate_frame s
    refine drivesExclusive_of_drv_eq ?_ hs
    rw [hmask, hactivate]
  powerUp s _ := drivesExclusive_of_atRest (atRest_powerUp s)
  powerDown s _ := drivesExclusive_of_atRest (atRest_powerDown s)
  lineReset s _ := drivesExclusive_of_atRest (atRest_lineReset s)
  lineRelease s hs := by obtain ⟨_, _, _, h⟩ := lineRelease_frame s; rw [h]; exact hs
  managementReset s _ _ := drivesExclusive_of_atRest (atRest_managementReset s)
  endStart s good _ _ hs := by
    obtain ⟨-, hdrv, -⟩ := endStart_keeps s good
    exact drivesExclusive_of_drv_eq hdrv hs

/-! The output lines follow their states. -/

theorem linesFollow_of_atRest {s : State} (h : AtRest s) : LinesFollow s := by
  obtain ⟨houts, -, -, hexc, -, hdrv, htnk⟩ := h
  rw [LinesFollow, houts, hexc, hdrv, htnk]
  exact ⟨rfl, rfl, rfl, rfl, rfl, rfl⟩

/-- A channel's line is set with its context (R95). -/
theorem linesFollow_enter (s : State) (c : Channel) (r : ChannelRec) (hs : LinesFollow s) : LinesFollow (enter s c r) := by
  obtain ⟨hmain, hroll, haux, hrest⟩ := hs
  obtain ⟨_, h⟩ := enter_frame s c r
  rw [h]
  cases c with
  | main => exact ⟨rfl, hroll, haux, hrest⟩
  | roll => exact ⟨hmain, rfl, haux, hrest⟩
  | aux => exact ⟨hmain, hroll, rfl, hrest⟩

/-- OUT_ALARM takes the summary's value with it (R166). -/
theorem linesFollow_excTake (s : State) (r : Raise) (hs : LinesFollow s) : LinesFollow (excTake s r) := by
  obtain ⟨hmain, hroll, haux, htank, hfill, halarm⟩ := hs
  obtain ⟨_, _, _, _, h⟩ := excTake_frame s r
  have hline : (excTake s r).outs.alarm = (excTake s r).exc.summary := by
    rw [excTake_outs, excTake_exc]
    split
    · exact halarm
    · rfl
  rw [h] at hline ⊢
  exact ⟨hmain, hroll, haux, htank, hfill, hline⟩

/-- A mask change takes summary and OUT_ALARM together (R166, R168). -/
theorem linesFollow_maskChange (s : State) (before : BitVec 18) (hs : LinesFollow s) : LinesFollow (maskChange s before) := by
  rw [maskChange]
  split
  · exact hs
  · obtain ⟨hmain, hroll, haux, htank, hfill, -⟩ := hs
    exact ⟨hmain, hroll, haux, htank, hfill, rfl⟩

/-- A taking in TNK sets the two valve lines from the state that it leaves (R137, R140). -/
theorem linesFollow_tnkTake (s : State) (n : TnkRec) (refused : Bool) (hs : LinesFollow s) :
    LinesFollow (tnkTake s n refused) := by
  obtain ⟨hmain, hroll, haux, -, -, halarm⟩ := hs
  exact ⟨hmain, hroll, haux, rfl, rfl, halarm⟩

/-- A refusal writes a channel's last outcome, which drives no line. -/
theorem linesFollow_outcome (s : State) (c : Channel) (o : Option DriveOutcome) (hs : LinesFollow s) :
    LinesFollow (s.setChan c { s.chan c with outcome := o }) := by
  cases c <;> exact hs

/-- Every elementary operation keeps each line with the state that drives it. -/
theorem closed_linesFollow : Closed LinesFollow where
  plain _ _ _ _ _ _ _ hs := hs
  sys _ _ _ _ hs := hs
  queueForwarded s p q _ hs := by obtain ⟨_, _, _, h⟩ := queueForwarded_frame s p q; rw [h]; exact hs
  queuePart s p f _ hs := by obtain ⟨_, _, h⟩ := queuePart_frame s p f; rw [h]; exact hs
  attemptEnd s p b _ hs := by obtain ⟨_, _, _, h⟩ := attemptEnd_frame s p b; rw [h]; exact hs
  ageExpiry s p i _ hs := by obtain ⟨_, _, _, _, h⟩ := ageExpiry_frame s p i; rw [h]; exact hs
  recover s p _ hs := by obtain ⟨_, _, _, h⟩ := recover_frame s p; rw [h]; exact hs
  reissue _ _ _ hs := hs
  unhold _ _ _ _ hs := hs
  supersede _ _ _ _ _ hs := hs
  place _ _ _ _ _ hs := hs
  excTake s r _ hs := linesFollow_excTake s r hs
  readHighest _ _ hs := hs
  clearFlags _ _ hs := by
    obtain ⟨hmain, hroll, haux, htank, hfill, -⟩ := hs
    exact ⟨hmain, hroll, haux, htank, hfill, rfl⟩
  emptyCapture _ _ hs := hs
  enter s c r _ _ hs := linesFollow_enter s c r hs
  outcome s c o _ hs := linesFollow_outcome s c o hs
  tnkTake s n b _ hs := linesFollow_tnkTake s n b hs
  runDry _ _ hs := hs
  csuFinish _ _ _ hs := hs
  activate s _ _ hs := by
    refine linesFollow_maskChange (activate s) _ ?_
    obtain ⟨_, _, hactivate⟩ := activate_frame s
    rw [hactivate]
    exact hs
  powerUp s _ := linesFollow_of_atRest (atRest_powerUp s)
  powerDown s _ := linesFollow_of_atRest (atRest_powerDown s)
  lineReset s _ := linesFollow_of_atRest (atRest_lineReset s)
  lineRelease s hs := by obtain ⟨_, _, _, h⟩ := lineRelease_frame s; rw [h]; exact hs
  managementReset s _ _ := linesFollow_of_atRest (atRest_managementReset s)
  endStart s good _ _ hs := by
    obtain ⟨houts, hdrv, hexc, -, ⟨_, _, _, htnk⟩, -⟩ := endStart_keeps s good
    rw [LinesFollow, houts, hdrv, hexc, htnk]
    exact hs

/-- Settles O56: both rules are kept by every elementary operation, so by every step; neither speaks of the queue. -/
theorem driveStatesAndLinesStaySound : Obligations.DriveStatesAndLinesStaySound :=
  ⟨fun _ _ hs h => closed_drivesExclusive.step_keeps (fun _ _ hs => hs) hs h,
    fun _ _ hs h => closed_linesFollow.step_keeps (fun _ _ hs => hs) hs h⟩

end Sys2Proof.Proofs
end

section
/-! The transmit queues (R5 to R8): what coalescing and the arbiter do with the frames of a queue, and the ranks. -/

namespace Sys2Proof.Proofs

open Sys2Proof Sys2Proof.Machine Sys2Proof.Safety

/-! Coalescing. -/

/-- A waiting frame that a request with the mark replaces: forwarded, with the mark, the same identifier and format (R6). -/
def coalescesWith (q : ForwardRequest) (w : QueuedFrame) : Prop :=
  (∃ arrival entry deadline, w.kind = .forwarded arrival entry deadline) ∧ w.mark = true ∧
    w.frame.ident = q.frame.ident ∧ w.frame.ext = q.frame.ext

/-- A frame that coalesces is replaced in its place. -/
theorem coalesce_cons_of_coalesces {q : ForwardRequest} {w : QueuedFrame} {arrival : Port} {entry : Option (Fin 96)}
    {deadline : Nat} (hkind : w.kind = .forwarded arrival entry deadline) (hmark : w.mark = true)
    (hident : w.frame.ident = q.frame.ident) (hext : w.frame.ext = q.frame.ext) (ws : List QueuedFrame) :
    coalesce q (w :: ws) = some ({ w with frame := q.frame, kind := .forwarded arrival q.entry deadline } :: ws) := by
  rw [coalesce, hmark, hident, hext, hkind]
  simp

/-- A frame that does not coalesce is passed over. -/
theorem coalesce_cons_of_not {q : ForwardRequest} {w : QueuedFrame} (h : ¬coalescesWith q w) (ws : List QueuedFrame) :
    coalesce q (w :: ws) = (coalesce q ws).map (w :: ·) := by
  rw [coalesce]
  split
  case isTrue hsame =>
    cases hkind : w.kind with
    | part => rfl
    | forwarded arrival entry deadline =>
      simp only [Bool.and_eq_true, beq_iff_eq] at hsame
      obtain ⟨⟨hmark, hident⟩, hext⟩ := hsame
      exact absurd ⟨⟨arrival, entry, deadline, hkind⟩, hmark, hident, hext⟩ h
  case isFalse => rfl

/-- Coalescing replaces the oldest frame that coalesces. -/
theorem coalesce_some {q : ForwardRequest} {l l' : List QueuedFrame} (h : coalesce q l = some l') :
    ∃ before w after arrival entry deadline, l = before ++ w :: after ∧
      w.kind = .forwarded arrival entry deadline ∧ w.mark = true ∧ w.frame.ident = q.frame.ident ∧
      w.frame.ext = q.frame.ext ∧
      l' = before ++ { w with frame := q.frame, kind := .forwarded arrival q.entry deadline } :: after ∧
      ∀ x ∈ before, ¬coalescesWith q x := by
  induction l generalizing l' with
  | nil => cases h
  | cons w ws ih =>
    by_cases hw : coalescesWith q w
    · obtain ⟨⟨arrival, entry, deadline, hkind⟩, hmark, hident, hext⟩ := hw
      rw [coalesce_cons_of_coalesces hkind hmark hident hext, Option.some.injEq] at h
      exact ⟨[], w, ws, arrival, entry, deadline, rfl, hkind, hmark, hident, hext, h.symm, fun _ hx => absurd hx List.not_mem_nil⟩
    · rw [coalesce_cons_of_not hw, Option.map_eq_some_iff] at h
      obtain ⟨l₁, hl₁, rfl⟩ := h
      obtain ⟨before, x, after, arrival, entry, deadline, rfl, hkind, hmark, hident, hext, rfl, hbefore⟩ := ih hl₁
      refine ⟨w :: before, x, after, arrival, entry, deadline, rfl, hkind, hmark, hident, hext, rfl, ?_⟩
      exact List.forall_mem_cons.2 ⟨hw, hbefore⟩

/-- Coalescing finds no frame exactly where none coalesces. -/
theorem coalesce_eq_none_iff (q : ForwardRequest) (l : List QueuedFrame) :
    coalesce q l = none ↔ ∀ w ∈ l, ¬coalescesWith q w := by
  induction l with
  | nil => simp [coalesce]
  | cons w ws ih =>
    by_cases hw : coalescesWith q w
    · obtain ⟨⟨arrival, entry, deadline, hkind⟩, hmark, hident, hext⟩ := hw
      rw [coalesce_cons_of_coalesces hkind hmark hident hext]
      refine ⟨fun h => absurd h (Option.some_ne_none _), fun h => ?_⟩
      exact absurd ⟨⟨arrival, entry, deadline, hkind⟩, hmark, hident, hext⟩ (h w List.mem_cons_self)
    · rw [coalesce_cons_of_not hw, Option.map_eq_none_iff, ih, List.forall_mem_cons]
      exact ⟨fun h => ⟨hw, h⟩, fun h => h.2⟩

/-- Coalescing keeps the number of frames, and which of them are forwarded. -/
theorem coalesce_shape {q : ForwardRequest} {l l' : List QueuedFrame} (h : coalesce q l = some l') :
    l'.map QueuedFrame.isForwarded = l.map QueuedFrame.isForwarded := by
  obtain ⟨before, w, after, arrival, entry, deadline, rfl, hkind, -, -, -, rfl, -⟩ := coalesce_some h
  have hw : w.isForwarded = true := by rw [QueuedFrame.isForwarded, hkind]
  simp only [List.map_append, List.map_cons, hw]
  rfl

/-! The arbiter. -/

/-- The waiting frame that ranks first is absent only where none waits. -/
theorem takeFirst_eq_none_iff (l : List QueuedFrame) : takeFirst l = none ↔ l = [] :=
  ⟨takeFirst_none, fun h => by rw [h]; rfl⟩

/-- The frame taken ranks strictly before the older ones and not behind the newer ones; the others stay in order (R8). -/
theorem takeFirst_some {l rest : List QueuedFrame} {q : QueuedFrame} (h : takeFirst l = some (q, rest)) :
    ∃ before after, l = before ++ q :: after ∧ rest = before ++ after ∧
      (∀ x ∈ before, rankKey q.frame < rankKey x.frame) ∧ ∀ x ∈ after, rankKey q.frame ≤ rankKey x.frame := by
  induction l generalizing q rest with
  | nil => cases h
  | cons w ws ih =>
    rw [takeFirst] at h
    cases hfirst : takeFirst ws with
    | none =>
      rw [hfirst] at h
      obtain ⟨rfl, rfl⟩ : w = q ∧ ws = rest := by simpa using h
      rw [takeFirst_none hfirst]
      exact ⟨[], [], rfl, rfl, fun _ hx => absurd hx List.not_mem_nil, fun _ hx => absurd hx List.not_mem_nil⟩
    | some best =>
      obtain ⟨b, others⟩ := best
      obtain ⟨before, after, hws, hothers, hbefore, hafter⟩ := ih hfirst
      rw [hfirst] at h
      simp only at h
      split at h
      case isTrue hrank =>
        obtain ⟨rfl, rfl⟩ : w = q ∧ ws = rest := by simpa using h
        refine ⟨[], ws, rfl, rfl, fun _ hx => absurd hx List.not_mem_nil, fun x hx => ?_⟩
        rw [hws, List.mem_append, List.mem_cons] at hx
        rcases hx with hx | rfl | hx
        · exact hrank.trans (hbefore x hx).le
        · exact hrank
        · exact hrank.trans (hafter x hx)
      case isFalse hrank =>
        obtain ⟨rfl, rfl⟩ : b = q ∧ w :: others = rest := by simpa using h
        refine ⟨w :: before, after, by rw [hws]; rfl, by rw [hothers]; rfl, ?_, hafter⟩
        exact List.forall_mem_cons.2 ⟨Nat.lt_of_not_le hrank, hbefore⟩

/-- An arbiter that must not act leaves the port as it is: in OFF, with a frame in flight, or with none waiting (R8). -/
theorem arbitrate_of_idle {r : PortRec} (h : r.state = .off ∨ r.inFlight ≠ none ∨ r.waiting = []) : r.arbitrate = r := by
  rw [PortRec.arbitrate]
  split
  case h_1 => rfl
  case h_2 => rfl
  case h_3 => rfl
  case h_4 hflight hfirst hnotOff =>
    rcases h with hoff | hsome | hempty
    · exact absurd hoff hnotOff
    · exact absurd hflight hsome
    · rw [hempty] at hfirst; cases hfirst

/-- An arbiter that acts puts the frame that ranks first in flight (R8). -/
theorem arbitrate_of_takeFirst {r : PortRec} {q : QueuedFrame} {rest : List QueuedFrame} (hoff : r.state ≠ .off)
    (hflight : r.inFlight = none) (hfirst : takeFirst r.waiting = some (q, rest)) :
    r.arbitrate = { r with waiting := rest, inFlight := some q } := by
  rw [PortRec.arbitrate, hflight, hfirst]
  cases hstate : r.state with
  | off => exact absurd hstate hoff
  | active | warn => rfl

/-- The arbiter moves the frames of a queue and changes nothing else. -/
theorem arbitrate_frame (r : PortRec) :
    r.arbitrate = { r with waiting := r.arbitrate.waiting, inFlight := r.arbitrate.inFlight } := by
  rw [PortRec.arbitrate]
  split <;> rfl

/-- The arbiter keeps the frames of the queue. -/
theorem arbitrate_frames_perm (r : PortRec) : r.arbitrate.frames.Perm r.frames := by
  by_cases hidle : r.state = .off ∨ r.inFlight ≠ none ∨ r.waiting = []
  · rw [arbitrate_of_idle hidle]
  · push Not at hidle
    obtain ⟨hoff, hflight, hwaiting⟩ := hidle
    obtain ⟨⟨q, rest⟩, hfirst⟩ := Option.ne_none_iff_exists'.1 (mt (takeFirst_eq_none_iff r.waiting).1 hwaiting)
    obtain ⟨before, after, hw, hrest, -, -⟩ := takeFirst_some hfirst
    rw [arbitrate_of_takeFirst hoff hflight hfirst, PortRec.frames, PortRec.frames, hflight, hw, hrest]
    exact List.perm_middle (l₁ := before) (l₂ := after).symm

/-- Past the arbiter no frame waits while none is in flight. -/
theorem arbitrate_settles {r : PortRec} (hoff : r.state ≠ .off) (hflight : r.arbitrate.inFlight = none) :
    r.arbitrate.waiting = [] := by
  by_cases hidle : r.inFlight ≠ none ∨ r.waiting = []
  · rw [arbitrate_of_idle (.inr hidle)] at hflight ⊢
    exact hidle.resolve_left (not_not_intro hflight)
  · push Not at hidle
    obtain ⟨hnone, hwaiting⟩ := hidle
    obtain ⟨⟨q, rest⟩, hfirst⟩ := Option.ne_none_iff_exists'.1 (mt (takeFirst_eq_none_iff r.waiting).1 hwaiting)
    rw [arbitrate_of_takeFirst hoff hnone hfirst] at hflight
    cases hflight

/-! The shares. -/

/-- The forwarded share counts the forwarded frames of the queue. -/
theorem forwardedDepth_eq (r : PortRec) : r.forwardedDepth = r.frames.countP QueuedFrame.isForwarded :=
  (List.countP_eq_length_filter ..).symm

/-- The part-originated share counts the others. -/
theorem partDepth_eq (r : PortRec) : r.partDepth = r.frames.countP fun q => !q.isForwarded :=
  (List.countP_eq_length_filter ..).symm

@[simp] theorem arbitrate_forwardedDepth (r : PortRec) : r.arbitrate.forwardedDepth = r.forwardedDepth := by
  rw [forwardedDepth_eq, forwardedDepth_eq]; exact (arbitrate_frames_perm r).countP_eq _

@[simp] theorem arbitrate_partDepth (r : PortRec) : r.arbitrate.partDepth = r.partDepth := by
  rw [partDepth_eq, partDepth_eq]; exact (arbitrate_frames_perm r).countP_eq _

end Sys2Proof.Proofs
end

section
/-! The invariants of the ports, of the Hold Buffer and of the applied ceiling (R5, R11, R12, R34, R151). -/

namespace Sys2Proof.Proofs

open Sys2Proof Sys2Proof.Machine Sys2Proof.Safety

/-! The operations of a port. -/

/-- What the arbiter needs to leave a sound port: everything but its own rule. -/
theorem portSound_arbitrate {r : PortRec} (hforwarded : r.forwardedDepth ≤ 14) (hpart : r.partDepth ≤ 2)
    (hcount : r.count ≤ 256) (hstate : r.state = countState r.count) (hoff : r.state ≠ .off) (hrecovery : r.recovery = none) :
    PortSound r.arbitrate := by
  have hframe := arbitrate_frame r
  have hs : r.arbitrate.state = r.state := by rw [hframe]
  have hc : r.arbitrate.count = r.count := by rw [hframe]
  have hr : r.arbitrate.recovery = r.recovery := by rw [hframe]
  rw [PortSound, arbitrate_forwardedDepth, arbitrate_partDepth, hs, hc, hr, hrecovery]
  exact ⟨hforwarded, hpart, hcount, hstate, ⟨fun h => absurd h hoff, fun h => by cases h⟩, arbitrate_settles hoff,
    fun h => absurd h hoff⟩

/-- A sound port outside OFF has no recovery timer running. -/
theorem recovery_of_portSound {r : PortRec} (h : PortSound r) (hoff : r.state ≠ .off) : r.recovery = none := by
  obtain ⟨-, -, -, -, hiff, -⟩ := h
  exact Option.not_isSome_iff_eq_none.1 fun hsome => hoff (hiff.2 hsome)

/-- The state of a sound port is that of its count. -/
theorem state_of_portSound {r : PortRec} (h : PortSound r) : r.state = countState r.count := by
  obtain ⟨-, -, -, hstate, -⟩ := h
  exact hstate

/-- A sound port in OFF has an empty queue. -/
theorem frames_of_portSound_off {r : PortRec} (h : PortSound r) (hoff : r.state = .off) :
    r.inFlight = none ∧ r.waiting = [] := by
  obtain ⟨-, -, -, -, -, hwaiting, hflight⟩ := h
  exact ⟨hflight hoff, hwaiting (hflight hoff)⟩

/-- The state is OFF exactly from 256 on (R11). -/
theorem countState_eq_off_iff (n : Nat) : countState n = .off ↔ 256 ≤ n := by
  rw [countState, Config.offCount, Config.warnCount]
  split
  case isTrue hoff => exact ⟨fun _ => hoff, fun _ => rfl⟩
  case isFalse hbelow =>
    refine ⟨fun h => ?_, fun hoff => absurd hoff hbelow⟩
    split at h <;> cases h

/-- A frame joins a sound port whose share has room. -/
theorem portSound_add {r : PortRec} {q : QueuedFrame} (h : PortSound r) (hoff : r.state ≠ .off)
    (hforwarded : q.isForwarded = true → r.forwardedDepth < 14) (hpart : q.isForwarded = false → r.partDepth < 2) :
    PortSound (r.add q) := by
  have hrecovery := recovery_of_portSound h hoff
  obtain ⟨hf, hp, hcount, hstate, -⟩ := h
  rw [forwardedDepth_eq] at hf hforwarded
  rw [partDepth_eq] at hp hpart
  have hframes : ({ r with waiting := r.waiting ++ [q] } : PortRec).frames = r.frames ++ [q] :=
    (List.append_assoc ..).symm
  refine portSound_arbitrate ?_ ?_ hcount hstate hoff hrecovery
  · rw [forwardedDepth_eq, hframes, List.countP_append, List.countP_singleton]
    cases hq : q.isForwarded with
    | true => have := hforwarded hq; simp; omega
    | false => simpa using hf
  · rw [partDepth_eq, hframes, List.countP_append, List.countP_singleton]
    cases hq : q.isForwarded with
    | true => simpa using hp
    | false => have := hpart hq; simp; omega

/-- The shares of a queue depend on which of its frames are forwarded, and on nothing else of them. -/
theorem depths_of_shape {r q : PortRec} (h : q.frames.map QueuedFrame.isForwarded = r.frames.map QueuedFrame.isForwarded) :
    q.forwardedDepth = r.forwardedDepth ∧ q.partDepth = r.partDepth := by
  have hforwarded (l : List QueuedFrame) : l.countP QueuedFrame.isForwarded = (l.map QueuedFrame.isForwarded).countP id := by
    rw [List.countP_map]; rfl
  have hpart (l : List QueuedFrame) : (l.countP fun q => !q.isForwarded) = (l.map QueuedFrame.isForwarded).countP not := by
    rw [List.countP_map]; rfl
  rw [forwardedDepth_eq, forwardedDepth_eq, partDepth_eq, partDepth_eq, hforwarded, hforwarded, hpart, hpart, h]
  exact ⟨rfl, rfl⟩

/-- Waiting frames replaced one by one within their share leave a port sound (R6 case 2). -/
theorem portSound_of_shape {r : PortRec} {ws : List QueuedFrame} (h : PortSound r)
    (hshape : ws.map QueuedFrame.isForwarded = r.waiting.map QueuedFrame.isForwarded) :
    PortSound { r with waiting := ws } := by
  have hframes : ({ r with waiting := ws } : PortRec).frames.map QueuedFrame.isForwarded =
      r.frames.map QueuedFrame.isForwarded := by
    rw [PortRec.frames, PortRec.frames, List.map_append, List.map_append, hshape]
  obtain ⟨hforwarded, hpart⟩ := depths_of_shape hframes
  obtain ⟨hf, hp, hcount, hstate, hrecovery, hwaiting, hflight⟩ := h
  refine ⟨hforwarded.trans_le hf, hpart.trans_le hp, hcount, hstate, hrecovery, fun hnone => ?_, hflight⟩
  rw [hwaiting hnone] at hshape
  exact List.map_eq_nil_iff.1 hshape

/-- Fewer frames in the queue take less of either share. -/
theorem depths_le_of_sublist {r q : PortRec} (h : r.frames.Sublist q.frames) :
    r.forwardedDepth ≤ q.forwardedDepth ∧ r.partDepth ≤ q.partDepth := by
  rw [forwardedDepth_eq, forwardedDepth_eq, partDepth_eq, partDepth_eq]
  exact ⟨h.countP_le, h.countP_le⟩

/-- A sound port outside OFF whose count and state move together, and from whose queue frames leave, is sound past the
arbiter. -/
theorem portSound_arbitrate_of_sublist {r q : PortRec} (h : PortSound r) (hoff : r.state ≠ .off)
    (hframes : q.frames.Sublist r.frames) (hcount : q.count < 256) (hstate : q.state = countState q.count)
    (hrecovery : q.recovery = r.recovery) : PortSound q.arbitrate := by
  have hrec := recovery_of_portSound h hoff
  obtain ⟨hf, hp, -⟩ := h
  obtain ⟨hf', hp'⟩ := depths_le_of_sublist hframes
  have hqoff : q.state ≠ .off := by rw [hstate, Ne, countState_eq_off_iff]; omega
  exact portSound_arbitrate (hf'.trans hf) (hp'.trans hp) hcount.le hstate hqoff (hrecovery.trans hrec)

/-- A sound port outside OFF counts below 256. -/
theorem count_lt_of_portSound {r : PortRec} (h : PortSound r) (hoff : r.state ≠ .off) : r.count < 256 := by
  obtain ⟨-, -, -, hstate, -⟩ := h
  rw [hstate, Ne, countState_eq_off_iff] at hoff
  omega

/-- Frames that leave the queue of a sound port outside OFF leave it sound past the arbiter. -/
theorem portSound_arbitrate_of_frames_leave {r q : PortRec} (h : PortSound r) (hoff : r.state ≠ .off)
    (hframes : q.frames.Sublist r.frames) (hcount : q.count = r.count) (hstate : q.state = r.state)
    (hrecovery : q.recovery = r.recovery) : PortSound q.arbitrate := by
  refine portSound_arbitrate_of_sublist h hoff hframes ?_ ?_ hrecovery
  · rw [hcount]; exact count_lt_of_portSound h hoff
  · rw [hcount, hstate]; exact state_of_portSound h

/-- Without the frame in flight the queue is a part of what it was. -/
theorem frames_without_flight (r : PortRec) (n : Nat) (st : PortState) :
    ({ r with count := n, state := st, inFlight := none } : PortRec).frames.Sublist r.frames :=
  List.sublist_append_right ..

theorem portSound_succeed {r : PortRec} (h : PortSound r) (hoff : r.state ≠ .off) : PortSound r.succeed := by
  have hcount := count_lt_of_portSound h hoff
  refine portSound_arbitrate_of_sublist h hoff (frames_without_flight r _ _) ?_ rfl rfl
  show r.count - 1 < 256
  omega

theorem portSound_off (r : PortRec) (recovery : Nat) : PortSound (r.off recovery) :=
  ⟨Nat.zero_le _, Nat.zero_le _, Nat.le_refl _, rfl, ⟨fun _ => rfl, fun _ => rfl⟩, fun _ => rfl, fun _ => rfl⟩

/-- Below 256 a failed attempt counts 8 and sets the state; the frames stay. -/
theorem portSound_failed {r : PortRec} {n : Nat} (h : PortSound r) (hoff : r.state ≠ .off) (hn : n < 256) :
    PortSound { r with count := n, state := countState n } := by
  have hrec := recovery_of_portSound h hoff
  obtain ⟨hf, hp, -, -, -, hwaiting, -⟩ := h
  have hnotOff : countState n ≠ .off := by rw [Ne, countState_eq_off_iff]; omega
  refine ⟨hf, hp, hn.le, rfl, ?_, hwaiting, fun hstate => absurd hstate hnotOff⟩
  show countState n = .off ↔ r.recovery.isSome = true
  rw [hrec]
  exact ⟨fun hstate => absurd hstate hnotOff, fun hsome => by cases hsome⟩

/-- A port that a reset left is sound (R14). -/
theorem portSound_of_portReset {r : PortRec} (h : PortReset r) : PortSound r := by
  obtain ⟨hstate, hcount, hwaiting, hflight, hrecovery⟩ := h
  have hframes : r.frames = [] := by rw [PortRec.frames, hflight, hwaiting]; rfl
  rw [PortSound, forwardedDepth_eq, partDepth_eq, hframes, hstate, hcount, hwaiting, hflight, hrecovery]
  decide

/-! Both ports. -/

theorem portsSound_iff (s : State) : PortsSound s ↔ ∀ p, PortSound (s.port p) :=
  ⟨fun ⟨hcp, hbp⟩ p => by cases p with | cp => exact hcp | bp => exact hbp, fun h => ⟨h .cp, h .bp⟩⟩

theorem portsSound_setPort {s : State} {p : Port} {r : PortRec} (hs : PortsSound s) (hr : PortSound r) :
    PortsSound (s.setPort p r) := by
  obtain ⟨hcp, hbp⟩ := hs
  cases p with
  | cp => exact ⟨hr, hbp⟩
  | bp => exact ⟨hcp, hr⟩

theorem portsSound_of_atRest {s : State} (h : AtRest s) : PortsSound s := by
  obtain ⟨-, hcp, hbp, -⟩ := h
  exact ⟨portSound_of_portReset hcp, portSound_of_portReset hbp⟩

/-- A forwarded frame coalesces within its share, or joins a share with room (R6). -/
theorem portsSound_queueForwarded (s : State) (p : Port) (q : ForwardRequest) (hs : PortsSound s) :
    PortsSound (queueForwarded s p q) := by
  have hport := (portsSound_iff s).1 hs p
  simp only [queueForwarded]
  split
  case isTrue => exact hs
  case isFalse hoff =>
    split
    case h_1 ws hcoalesce =>
      have hws : coalesce q (s.port p).waiting = some ws := by
        split at hcoalesce
        · exact hcoalesce
        · cases hcoalesce
      exact portsSound_setPort hs (portSound_of_shape hport (coalesce_shape hws))
    case h_2 =>
      split
      case isTrue => exact hs
      case isFalse hroom =>
        exact portsSound_setPort hs (portSound_add hport hoff (fun _ => Nat.lt_of_not_le hroom) fun h => by cases h)

/-- A part-originated frame joins a share with room (R7). -/
theorem portsSound_queuePart (s : State) (p : Port) (f : Frame) (hs : PortsSound s) : PortsSound (queuePart s p f) := by
  simp only [queuePart]
  split
  case isTrue => exact hs
  case isFalse hroom =>
    simp only [Bool.or_eq_true, decide_eq_true_eq, not_or] at hroom
    obtain ⟨hoff, hshare⟩ := hroom
    exact portsSound_setPort hs
      (portSound_add ((portsSound_iff s).1 hs p) hoff (fun h => by cases h) fun _ => Nat.lt_of_not_le hshare)

/-- The taking of a raise touches the ports by its notice alone. -/
theorem portsSound_excTake (s : State) (r : Raise) (hs : PortsSound s) : PortsSound (excTake s r) := by
  rw [excTake]
  split
  · exact hs
  · rw [sendNotice]
    split
    · exact hs
    · exact portsSound_queuePart _ _ _ hs

/-- A forwarded frame past its deadline leaves a port outside OFF (R9). -/
theorem portsSound_retryOrDrop (s : State) (p : Port) (hoff : (s.port p).state ≠ .off) (hs : PortsSound s) :
    PortsSound (retryOrDrop s p) := by
  have hport := (portsSound_iff s).1 hs p
  simp only [retryOrDrop]
  split
  case h_1 =>
    split
    · exact portsSound_setPort hs
        (portSound_arbitrate_of_frames_leave hport hoff (frames_without_flight _ _ _) rfl rfl rfl)
    · exact hs
  case h_2 => exact hs

theorem portsSound_failAttempt (s : State) (p : Port) (hoff : (s.port p).state ≠ .off) (hs : PortsSound s) :
    PortsSound (failAttempt s p) := by
  have hport := (portsSound_iff s).1 hs p
  simp only [failAttempt]
  split
  case isTrue => exact portsSound_setPort hs (portSound_off _ _)
  case isFalse hbelow =>
    have hn : failedCount (s.port p).count < 256 := by
      rw [failedCount, Config.offCount] at hbelow ⊢
      omega
    have hnotOff : countState (failedCount (s.port p).count) ≠ .off := by rw [Ne, countState_eq_off_iff]; omega
    have hset := portsSound_setPort (p := p) hs (portSound_failed hport hoff hn)
    refine portsSound_retryOrDrop _ p ?_ ?_
    · split <;> simpa using hnotOff
    · split <;> exact hset

theorem portsSound_attemptEnd (s : State) (p : Port) (success : Bool) (hs : PortsSound s) :
    PortsSound (attemptEnd s p success) := by
  simp only [attemptEnd]
  split
  case isTrue => exact hs
  case isFalse hflight =>
    obtain ⟨hoff, -⟩ := not_or.1 hflight
    split
    · exact portsSound_setPort hs (portSound_succeed ((portsSound_iff s).1 hs p) hoff)
    · exact portsSound_failAttempt s p hoff hs

/-- A waiting frame past its deadline leaves its port; a port in OFF has none (R10). -/
theorem portsSound_ageExpiry (s : State) (p : Port) (i : Nat) (hs : PortsSound s) : PortsSound (ageExpiry s p i) := by
  have hport := (portsSound_iff s).1 hs p
  simp only [ageExpiry]
  split
  case h_1 hwaits =>
    have hoff : (s.port p).state ≠ .off := fun hoff => by
      obtain ⟨-, hempty⟩ := frames_of_portSound_off hport hoff
      rw [hempty] at hwaits
      cases hwaits
    refine portsSound_setPort hs (portSound_arbitrate_of_frames_leave hport hoff ?_ rfl rfl rfl)
    exact (List.Sublist.refl _).append (List.eraseIdx_sublist ..)
  case h_2 => exact hs

/-- A port that recovers is empty, with count 0 (R13). -/
theorem portsSound_recover (s : State) (p : Port) (hs : PortsSound s) : PortsSound (recover s p) := by
  have hport := (portsSound_iff s).1 hs p
  simp only [recover]
  split
  case h_1 hoff _ =>
    obtain ⟨hflight, hwaiting⟩ := frames_of_portSound_off hport hoff
    exact portsSound_setPort hs (portSound_of_portReset ⟨rfl, rfl, hwaiting, hflight, rfl⟩)
  case h_2 => exact hs

/-- Every elementary operation keeps both ports sound. -/
theorem closed_portsSound : Closed PortsSound where
  plain _ _ _ _ _ _ _ hs := hs
  sys _ _ _ _ hs := hs
  queueForwarded s p q _ hs := portsSound_queueForwarded s p q hs
  queuePart s p f _ hs := portsSound_queuePart s p f hs
  attemptEnd s p b _ hs := portsSound_attemptEnd s p b hs
  ageExpiry s p i _ hs := portsSound_ageExpiry s p i hs
  recover s p _ hs := portsSound_recover s p hs
  reissue _ _ _ hs := hs
  unhold _ _ _ _ hs := hs
  supersede _ _ _ _ _ hs := hs
  place _ _ _ _ _ hs := hs
  excTake s r _ hs := portsSound_excTake s r hs
  readHighest _ _ hs := hs
  clearFlags _ _ hs := hs
  emptyCapture _ _ hs := hs
  enter s c r _ _ hs := by obtain ⟨_, _, _, h⟩ := enter_frame' s c r; rw [h]; exact hs
  outcome _ _ _ _ hs := hs
  tnkTake _ _ _ _ hs := hs
  runDry _ _ hs := hs
  csuFinish _ _ _ hs := hs
  activate s _ _ hs := by
    obtain ⟨_, _, hmask⟩ := maskChange_frame (activate s) s.active.mask
    obtain ⟨_, _, hactivate⟩ := activate_frame s
    rw [hmask, hactivate]
    exact hs
  powerUp s _ := portsSound_of_atRest (atRest_powerUp s)
  powerDown s _ := portsSound_of_atRest (atRest_powerDown s)
  lineReset s _ := portsSound_of_atRest (atRest_lineReset s)
  lineRelease s hs := by obtain ⟨_, _, _, h⟩ := lineRelease_frame s; rw [h]; exact hs
  managementReset s _ _ := portsSound_of_atRest (atRest_managementReset s)
  endStart s good _ _ hs := by
    obtain ⟨-, -, -, -, -, ⟨_, hcp⟩, _, hbp⟩ := endStart_keeps s good
    rw [PortsSound, hcp, hbp]
    exact hs

/-! The Hold Buffer. -/

/-- The bound speaks of the Hold Buffer alone. -/
theorem holdBound_of_fre_eq {s u : State} (h : u.fre = s.fre) (hs : HoldBound s) : HoldBound u := by
  rw [HoldBound, h]; exact hs

theorem holdBound_of_atRest {s : State} (h : AtRest s) : HoldBound s := by
  obtain ⟨-, -, -, -, hfre, -⟩ := h
  rw [HoldBound, hfre]
  exact ⟨Nat.zero_le _, List.nodup_nil⟩

/-- Frames that leave the Hold Buffer leave it within its bound. -/
theorem holdBound_of_sublist {s : State} {l : List HeldFrame} (h : l.Sublist s.fre.hold) (hs : HoldBound s) :
    HoldBound (s.setHold l) := by
  obtain ⟨hlength, hdistinct⟩ := hs
  exact ⟨h.length_le.trans hlength, hdistinct.sublist (h.map _)⟩

/-- A superseded frame keeps its identifier (R36). -/
theorem superseded_idents (l : List HeldFrame) (f : Frame) (p : Port) (e : Fin 96) :
    (l.map fun x => if x.same f.ident e then x.superseded f p else x).map (fun h => h.frame.ident) =
      l.map fun h => h.frame.ident := by
  rw [List.map_map]
  refine List.map_congr_left fun x _ => ?_
  rw [Function.comp_apply]
  split
  case isTrue hsame =>
    rw [HeldFrame.same, Bool.and_eq_true, beq_iff_eq] at hsame
    exact hsame.1.symm
  case isFalse => rfl

theorem holdBound_supersede (s : State) (f : Frame) (p : Port) (e : Fin 96) (hs : HoldBound s) :
    HoldBound (s.setHold (s.fre.hold.map fun x => if x.same f.ident e then x.superseded f p else x)) := by
  obtain ⟨hlength, hdistinct⟩ := hs
  refine ⟨(List.length_map ..).trans_le hlength, ?_⟩
  exact (superseded_idents s.fre.hold f p e).symm ▸ hdistinct

/-- A frame is placed in a free holder, and no held frame has its identifier (R35, R37). -/
theorem holdBound_place (s : State) (h : HeldFrame) (hfree : s.fre.hold.length < 8)
    (hnew : ∀ x ∈ s.fre.hold, x.frame.ident ≠ h.frame.ident) (hs : HoldBound s) : HoldBound (s.setHold (s.fre.hold ++ [h])) := by
  obtain ⟨-, hdistinct⟩ := hs
  refine ⟨(List.length_append ..).trans_le hfree, ?_⟩
  show ((s.fre.hold ++ [h]).map fun x => x.frame.ident).Nodup
  rw [List.map_append]
  refine hdistinct.append (List.nodup_singleton _) ?_
  rw [List.disjoint_right]
  intro id hid hheld
  obtain ⟨x, hx, rfl⟩ := List.mem_map.1 hheld
  exact hnew x hx (by simpa using hid)

/-- Every elementary operation keeps the bound of the Hold Buffer. -/
theorem closed_holdBound : Closed HoldBound where
  plain _ _ _ _ _ _ _ hs := hs
  sys _ _ _ _ hs := hs
  queueForwarded s p q _ hs := by obtain ⟨_, _, _, h⟩ := queueForwarded_frame s p q; rw [h]; exact hs
  queuePart s p f _ hs := by obtain ⟨_, _, h⟩ := queuePart_frame s p f; rw [h]; exact hs
  attemptEnd s p b _ hs := by obtain ⟨_, _, _, h⟩ := attemptEnd_frame s p b; rw [h]; exact hs
  ageExpiry s p i _ hs := by obtain ⟨_, _, _, _, h⟩ := ageExpiry_frame s p i; rw [h]; exact hs
  recover s p _ hs := by obtain ⟨_, _, _, h⟩ := recover_frame s p; rw [h]; exact hs
  reissue _ _ _ hs := hs
  unhold _ _ _ hsub hs := holdBound_of_sublist hsub hs
  supersede s f p e _ hs := holdBound_supersede s f p e hs
  place s h _ hfree hnew hs := holdBound_place s h hfree hnew hs
  excTake s r _ hs := by obtain ⟨_, _, _, _, h⟩ := excTake_frame s r; rw [h]; exact hs
  readHighest _ _ hs := hs
  clearFlags _ _ hs := hs
  emptyCapture _ _ hs := hs
  enter s c r _ _ hs := by obtain ⟨_, _, _, h⟩ := enter_frame' s c r; rw [h]; exact hs
  outcome _ _ _ _ hs := hs
  tnkTake _ _ _ _ hs := hs
  runDry _ _ hs := hs
  csuFinish _ _ _ hs := hs
  activate s _ _ hs := by
    obtain ⟨_, _, hmask⟩ := maskChange_frame (activate s) s.active.mask
    obtain ⟨_, _, hactivate⟩ := activate_frame s
    rw [hmask, hactivate]
    exact hs
  powerUp s _ := holdBound_of_atRest (atRest_powerUp s)
  powerDown s _ := holdBound_of_atRest (atRest_powerDown s)
  lineReset s _ := holdBound_of_atRest (atRest_lineReset s)
  lineRelease s hs := by obtain ⟨_, _, _, h⟩ := lineRelease_frame s; rw [h]; exact hs
  managementReset s _ _ := holdBound_of_atRest (atRest_managementReset s)
  endStart s good _ _ hs := by
    obtain ⟨-, -, -, hfre, -⟩ := endStart_keeps s good
    exact holdBound_of_fre_eq hfre hs

/-! The applied ceiling. -/

/-- The bound speaks of the two ceilings alone. -/
theorem ceilingBound_of_csu_eq {s u : State} (htarget : u.csu.target = s.csu.target) (happlied : u.csu.applied = s.csu.applied)
    (hs : CeilingBound s) : CeilingBound u := by
  rw [CeilingBound, htarget, happlied]; exact hs

/-- Steps 3 and 4 of a taking leave the applied ceiling at or below the target, wherever it stood before (R151). -/
theorem applyTarget_bound (t : Tables) (now : Nat) (c : CsuRec) :
    (applyTarget t now c).applied.toNat ≤ (applyTarget t now c).target.toNat := by
  simp only [applyTarget]
  split
  case isTrue => exact Nat.le_refl _
  case isFalse hnotBelow =>
    split
    · exact Nat.le_of_not_lt hnotBelow
    · exact Nat.le_of_not_lt hnotBelow

/-- A reset keeps both ceilings (R160, log 7). -/
theorem powerUp_ceilings (s : State) :
    (powerUp s).csu.target = s.csu.target ∧ (powerUp s).csu.applied = s.csu.applied := by
  simp only [powerUp]
  split <;> exact ⟨rfl, rfl⟩

/-- Every elementary operation keeps the applied ceiling at or below the target. -/
theorem closed_ceilingBound : Closed CeilingBound where
  plain _ _ _ _ _ _ _ hs := hs
  sys _ _ _ _ hs := hs
  queueForwarded s p q _ hs := by obtain ⟨_, _, _, h⟩ := queueForwarded_frame s p q; rw [h]; exact hs
  queuePart s p f _ hs := by obtain ⟨_, _, h⟩ := queuePart_frame s p f; rw [h]; exact hs
  attemptEnd s p b _ hs := by obtain ⟨_, _, _, h⟩ := attemptEnd_frame s p b; rw [h]; exact hs
  ageExpiry s p i _ hs := by obtain ⟨_, _, _, _, h⟩ := ageExpiry_frame s p i; rw [h]; exact hs
  recover s p _ hs := by obtain ⟨_, _, _, h⟩ := recover_frame s p; rw [h]; exact hs
  reissue _ _ _ hs := hs
  unhold _ _ _ _ hs := hs
  supersede _ _ _ _ _ hs := hs
  place _ _ _ _ _ hs := hs
  excTake s r _ hs := by obtain ⟨_, _, _, _, h⟩ := excTake_frame s r; rw [h]; exact hs
  readHighest _ _ hs := hs
  clearFlags _ _ hs := hs
  emptyCapture _ _ hs := hs
  enter s c r _ _ hs := by obtain ⟨_, _, _, h⟩ := enter_frame' s c r; rw [h]; exact hs
  outcome _ _ _ _ hs := hs
  tnkTake _ _ _ _ hs := hs
  runDry _ _ hs := hs
  csuFinish s c _ _ := applyTarget_bound s.active s.now c
  activate s _ _ hs := by
    obtain ⟨_, _, hmask⟩ := maskChange_frame (activate s) s.active.mask
    obtain ⟨_, _, hactivate⟩ := activate_frame s
    rw [hmask, hactivate]
    exact hs
  powerUp s hs := ceilingBound_of_csu_eq (powerUp_ceilings s).1 (powerUp_ceilings s).2 hs
  powerDown _ hs := hs
  lineReset _ hs := hs
  lineRelease s hs := by obtain ⟨_, _, _, h⟩ := lineRelease_frame s; rw [h]; exact hs
  managementReset _ _ hs := hs
  endStart s good _ _ _ := by
    obtain ⟨_, _, _, _, _, t, c, _, _, _, _, h⟩ := endStart_frame s good
    have hcsu : (endStart s good).csu = applyTarget t s.now c := by rw [h]
    rw [CeilingBound, hcsu]
    exact applyTarget_bound t s.now c

/-- Settles O57: each bound is kept by every elementary operation, so by every step; none speaks of the queue of commands. -/
theorem queuesAndCeilingStayBounded : Obligations.QueuesAndCeilingStayBounded :=
  ⟨⟨fun _ _ hs h => closed_portsSound.step_keeps (fun _ _ hs => hs) hs h,
    fun _ _ hs h => closed_holdBound.step_keeps (fun _ _ hs => hs) hs h⟩,
    fun _ _ hs h => closed_ceilingBound.step_keeps (fun _ _ hs => hs) hs h⟩

end Sys2Proof.Proofs
end

section
/-! The invariants of rest outside RUN, of the exception bits and of the fill valve (R2, R14, R117, R140, R166, R167, R194). -/

namespace Sys2Proof.Proofs

open Sys2Proof Sys2Proof.Machine Sys2Proof.Safety

/-! Rest outside RUN. -/

/-- The part at rest outside RUN, and held in reset without supply or with the reset line low. -/
def Resting (s : State) : Prop := QuietOutsideRun s ∧ HeldInReset s

/-- The controller in RUN meets both rules whatever the blocks hold, so in RUN a block's operation keeps them. -/
theorem resting_of_sys_eq {s u : State} (h : u.sys = s.sys) (hrun : s.sys.phase = .run) (hs : Resting s) : Resting u := by
  obtain ⟨-, hheld⟩ := hs
  refine ⟨fun hnot => absurd (by rw [h]; exact hrun) hnot, ?_⟩
  rw [HeldInReset, h]
  exact hheld

/-- A state at rest meets the rules where its controller holds the reset. -/
theorem resting_of_atRest {s : State} (hrest : AtRest s) (hheld : HeldInReset s) : Resting s := ⟨fun _ => hrest, hheld⟩

/-- Past START the part has its supply, and its reset line is high. -/
theorem not_held_of_phase {s : State} (hs : Resting s) (hphase : s.sys.phase ≠ .reset) :
    ¬(s.sys.powered = false ∨ s.sys.resetLow = true) :=
  mt hs.2 hphase

theorem resting_powerUp (s : State) : Resting (powerUp s) := by
  refine resting_of_atRest (atRest_powerUp s) ?_
  simp only [powerUp]
  split
  case isTrue => exact fun _ => rfl
  case isFalse hhigh =>
    rintro (hpower | hlow)
    · cases hpower
    · exact absurd hlow hhigh

/-- The line rises: with the supply in its range the reset is released, else it lasts (R194, R197). -/
theorem resting_lineRelease {s : State} (hs : Resting s) : Resting (lineRelease s) := by
  by_cases hlow : s.sys.resetLow = true
  · have hreset : s.sys.phase = .reset := hs.2 (.inr hlow)
    have hrest : AtRest s := hs.1 (by rw [hreset]; decide)
    rw [lineRelease, if_pos hlow]
    simp only
    split
    case isTrue hpower =>
      refine resting_of_atRest (atRest_beginStart hrest) ?_
      rintro (hout | hline)
      · exact absurd (hpower.symm.trans hout) Bool.false_ne_true.symm
      · cases hline
    case isFalse => exact resting_of_atRest hrest fun _ => hreset
  · rw [lineRelease, if_neg hlow]
    exact hs

theorem resting_managementReset {s : State} (hrun : s.sys.phase = .run) (hs : Resting s) : Resting (managementReset s) := by
  have hheld := not_held_of_phase hs (by rw [hrun]; decide)
  exact resting_of_atRest (atRest_managementReset s) fun hout => absurd hout hheld

theorem endStart_sys (s : State) (good : Bool) : (endStart s good).sys = s.sys.started good := by
  obtain ⟨_, _, _, _, _, _, _, _, _, _, _, h⟩ := endStart_frame s good
  rw [h]

theorem resting_endStart {s : State} (hstart : s.sys.phase = .start) (good : Bool) (hs : Resting s) :
    Resting (endStart s good) := by
  have hheld := not_held_of_phase hs (by rw [hstart]; decide)
  rw [Resting, QuietOutsideRun, HeldInReset, endStart_sys]
  exact ⟨fun hnot => absurd rfl hnot, fun hout => absurd hout hheld⟩

/-- A plain update keeps the controller, the lines and the blocks that rest. -/
theorem closed_resting : Closed Resting where
  plain _ _ _ _ _ _ _ hs := hs
  sys _ _ _ _ hs := hs
  queueForwarded s p q hr hs := by obtain ⟨_, _, _, h⟩ := queueForwarded_frame s p q; exact resting_of_sys_eq (by rw [h]) hr hs
  queuePart s p f hr hs := by obtain ⟨_, _, h⟩ := queuePart_frame s p f; exact resting_of_sys_eq (by rw [h]) hr hs
  attemptEnd s p b hr hs := by obtain ⟨_, _, _, h⟩ := attemptEnd_frame s p b; exact resting_of_sys_eq (by rw [h]) hr hs
  ageExpiry s p i hr hs := by obtain ⟨_, _, _, _, h⟩ := ageExpiry_frame s p i; exact resting_of_sys_eq (by rw [h]) hr hs
  recover s p hr hs := by obtain ⟨_, _, _, h⟩ := recover_frame s p; exact resting_of_sys_eq (by rw [h]) hr hs
  reissue s _ hr hs := resting_of_sys_eq (s := s) rfl hr hs
  unhold s _ hr _ hs := resting_of_sys_eq (s := s) rfl hr hs
  supersede s _ _ _ hr hs := resting_of_sys_eq (s := s) rfl hr hs
  place s _ hr _ _ hs := resting_of_sys_eq (s := s) rfl hr hs
  excTake s r hr hs := by obtain ⟨_, _, _, _, h⟩ := excTake_frame s r; exact resting_of_sys_eq (by rw [h]) hr hs
  readHighest s hr hs := resting_of_sys_eq (s := s) rfl hr hs
  clearFlags s hr hs := resting_of_sys_eq (s := s) rfl hr hs
  emptyCapture s hr hs := resting_of_sys_eq (s := s) rfl hr hs
  enter s c r hr _ hs := resting_of_sys_eq (enter_phase s c r) hr hs
  outcome s _ _ hr hs := resting_of_sys_eq (s := s) rfl hr hs
  tnkTake s _ _ hr hs := resting_of_sys_eq (s := s) rfl hr hs
  runDry s hr hs := resting_of_sys_eq (s := s) rfl hr hs
  csuFinish s _ hr hs := resting_of_sys_eq (s := s) rfl hr hs
  activate s hr _ hs := by
    obtain ⟨_, _, hmask⟩ := maskChange_frame (activate s) s.active.mask
    obtain ⟨_, _, hactivate⟩ := activate_frame s
    rw [hmask, hactivate]
    exact ⟨fun hnot => absurd hr hnot, hs.2⟩
  powerUp s _ := resting_powerUp s
  powerDown s _ := resting_of_atRest (atRest_powerDown s) fun _ => rfl
  lineReset s _ := resting_of_atRest (atRest_lineReset s) fun _ => rfl
  lineRelease _ hs := resting_lineRelease hs
  managementReset _ hr hs := resting_managementReset hr hs
  endStart _ good hstart _ hs := resting_endStart hstart good hs

/-! Exception bits. -/

/-- Two sets of classes are disjoint. -/
theorem and_eq_zero_iff (a b : BitVec 18) : a &&& b = 0 ↔ ∀ i, a.getLsbD i = true → b.getLsbD i = false := by
  constructor
  · intro h i ha
    have hi : (a &&& b).getLsbD i = false := by rw [h]; exact BitVec.getLsbD_zero
    rwa [BitVec.getLsbD_and, ha, Bool.true_and] at hi
  · intro h
    refine BitVec.eq_of_getLsbD_eq fun i _ => ?_
    rw [BitVec.getLsbD_and]
    cases ha : a.getLsbD i with
    | false => exact BitVec.getLsbD_zero.symm
    | true => rw [h i ha]; exact BitVec.getLsbD_zero.symm

/-- A set of classes lies within another. -/
theorem and_not_eq_zero_iff (a b : BitVec 18) : a &&& ~~~b = 0 ↔ ∀ i, a.getLsbD i = true → b.getLsbD i = true := by
  rw [and_eq_zero_iff]
  refine forall_congr' fun i => imp_congr_right fun ha => ?_
  rw [BitVec.getLsbD_not, decide_eq_true (BitVec.lt_of_getLsbD ha)]
  cases b.getLsbD i <;> decide

/-- A class is the only member of its bit. -/
theorem eq_of_getLsbD_classBit {c : ExcClass} {i : Nat} (h : (classBit c).getLsbD i = true) : i = classNumber c - 1 := by
  rw [classBit, BitVec.getLsbD_twoPow, Bool.and_eq_true, decide_eq_true_eq, decide_eq_true_eq] at h
  exact h.2.symm

/-- The rule of the exception bits, class by class: a pending class is flagged and unmasked, and the summary is on where a
flagged class is unmasked (R166, R167). -/
theorem exceptionBits_iff (s : State) : ExceptionBits s ↔
    (∀ i, s.exc.pend.getLsbD i = true → s.exc.flags.getLsbD i = true) ∧
      (∀ i, s.exc.pend.getLsbD i = true → s.active.mask.getLsbD i = false) ∧
      s.exc.summary = summaryOf s.exc.flags s.active.mask := by
  rw [ExceptionBits, and_not_eq_zero_iff, and_eq_zero_iff]

/-- The rule speaks of EXC's state and the mask alone. -/
theorem exceptionBits_of_exc_eq {s u : State} (hexc : u.exc = s.exc) (hmask : u.active.mask = s.active.mask)
    (hs : ExceptionBits s) : ExceptionBits u := by
  rw [ExceptionBits, hexc, hmask]; exact hs

theorem exceptionBits_of_atRest {s : State} (h : AtRest s) : ExceptionBits s := by
  obtain ⟨-, -, -, hexc, -⟩ := h
  rw [ExceptionBits, hexc]
  simp [summaryOf]

/-- The flag of a masked class does not reach the summary (R166). -/
theorem summaryOf_of_masked {flags mask : BitVec 18} {c : ExcClass} (h : hasClass mask c = true) :
    summaryOf (flags ||| classBit c) mask = summaryOf flags mask := by
  have hbit : classBit c &&& ~~~mask = 0 := by
    rw [and_not_eq_zero_iff]
    intro i hi
    rw [eq_of_getLsbD_classBit hi]
    exact h
  have hsame : (flags ||| classBit c) &&& ~~~mask = flags &&& ~~~mask := by
    rw [BitVec.and_or_distrib_right, hbit]
    exact BitVec.or_zero
  rw [summaryOf, summaryOf, hsame]

/-- A raise of a masked class flags it; of an unmasked class it flags it, has it pending and takes the summary anew (R163). -/
theorem exceptionBits_excTake (s : State) (r : Raise) (hs : ExceptionBits s) : ExceptionBits (excTake s r) := by
  obtain ⟨hflagged, hunmasked, hsummary⟩ := (exceptionBits_iff s).1 hs
  have hflags : ∀ i, s.exc.pend.getLsbD i = true → (flagsAfter s r).getLsbD i = true := fun i hi => by
    rw [flagsAfter, BitVec.getLsbD_or, hflagged i hi, Bool.true_or]
  rw [exceptionBits_iff, excTake_active, excTake_exc]
  split
  case isTrue hmasked => exact ⟨hflags, hunmasked, hsummary.trans (summaryOf_of_masked hmasked).symm⟩
  case isFalse hopen =>
    have hpend (i : Nat) (hi : (pendAfter s r).getLsbD i = true) :
        s.exc.pend.getLsbD i = true ∨ (classBit r.cls).getLsbD i = true := by
      rwa [pendAfter, BitVec.getLsbD_or, Bool.or_eq_true] at hi
    refine ⟨fun i hi => ?_, fun i hi => ?_, rfl⟩
    · rcases hpend i hi with hold | hnew
      · exact hflags i hold
      · show (flagsAfter s r).getLsbD i = true
        rw [flagsAfter, BitVec.getLsbD_or, hnew, Bool.or_true]
    · rcases hpend i hi with hold | hnew
      · exact hunmasked i hold
      · rw [eq_of_getLsbD_classBit hnew]
        exact Bool.eq_false_iff.2 hopen

/-- The newly masked classes leave the pending set, and the summary is taken anew (R168). -/
theorem exceptionBits_maskChange (s : State) (before : BitVec 18)
    (hflagged : ∀ i, s.exc.pend.getLsbD i = true → s.exc.flags.getLsbD i = true)
    (hunmasked : ∀ i, s.exc.pend.getLsbD i = true → before.getLsbD i = false)
    (hsummary : s.exc.summary = summaryOf s.exc.flags before) : ExceptionBits (maskChange s before) := by
  rw [maskChange]
  split
  case isTrue hsame =>
    rw [exceptionBits_iff, ← hsame]
    exact ⟨hflagged, hunmasked, hsummary⟩
  case isFalse =>
    have hkept (i : Nat) (hi : (s.exc.pend &&& (before ||| ~~~s.active.mask)).getLsbD i = true) :
        s.exc.pend.getLsbD i = true ∧ s.active.mask.getLsbD i = false := by
      rw [BitVec.getLsbD_and, BitVec.getLsbD_or, Bool.and_eq_true] at hi
      obtain ⟨hpend, hmask⟩ := hi
      rw [hunmasked i hpend, Bool.false_or, BitVec.getLsbD_not, Bool.and_eq_true, Bool.not_eq_true'] at hmask
      exact ⟨hpend, hmask.2⟩
    exact (exceptionBits_iff _).2 ⟨fun i hi => hflagged i (hkept i hi).1, fun i hi => (hkept i hi).2, rfl⟩

/-- READ_EVENT clears a pending bit at most (R173). -/
theorem getLsbD_of_dropHighest {set : BitVec 18} {i : Nat} (h : (dropHighest set).getLsbD i = true) :
    set.getLsbD i = true := by
  rw [dropHighest] at h
  split at h
  · exact h
  · rw [BitVec.getLsbD_and, Bool.and_eq_true] at h
    exact h.1

theorem exceptionBits_readHighest {s : State} (hs : ExceptionBits s) : ExceptionBits (readHighest s) := by
  obtain ⟨hflagged, hunmasked, hsummary⟩ := (exceptionBits_iff s).1 hs
  exact (exceptionBits_iff _).2 ⟨fun i hi => hflagged i (getLsbD_of_dropHighest hi),
    fun i hi => hunmasked i (getLsbD_of_dropHighest hi), hsummary⟩

theorem exceptionBits_clearFlags (s : State) : ExceptionBits (clearFlags s) := by
  refine ⟨BitVec.zero_and, BitVec.zero_and, ?_⟩
  show false = summaryOf 0 s.active.mask
  simp [summaryOf]

/-- A commit's activation with EXC's step, which takes the new mask (R168, R191). -/
theorem exceptionBits_activate {s : State} (hs : ExceptionBits s) :
    ExceptionBits (maskChange (activate s) s.active.mask) := by
  obtain ⟨hflagged, hunmasked, hsummary⟩ := (exceptionBits_iff s).1 hs
  obtain ⟨_, _, hactivate⟩ := activate_frame s
  rw [hactivate]
  exact exceptionBits_maskChange _ _ hflagged hunmasked hsummary

/-- START ends with EXC as the reset left it, whatever mask start-up loads (R177). -/
theorem atRest_of_start {s : State} (hstart : s.sys.phase = .start) (hs : Resting s) : AtRest s :=
  hs.1 (by rw [hstart]; decide)

theorem exceptionBits_endStart {s : State} (hrest : AtRest s) (good : Bool) : ExceptionBits (endStart s good) := by
  obtain ⟨-, -, -, hrested, -⟩ := hrest
  obtain ⟨-, -, hexc, -⟩ := endStart_keeps s good
  rw [ExceptionBits, hexc, hrested]
  simp [summaryOf]

/-! The fill valve. -/

/-- The guard speaks of TNK's state alone. -/
theorem fillGuard_of_tnk_eq {s u : State} (h : u.tnk = s.tnk) (hs : FillGuard s) : FillGuard u := by
  rw [FillGuard, h]; exact hs

theorem fillGuard_of_atRest {s : State} (h : AtRest s) : FillGuard s := by
  obtain ⟨-, -, -, -, -, -, htnk⟩ := h
  rw [FillGuard, htnk]
  exact fun hopen => by cases hopen

/-- The end of a taking closes the valve where its conditions fail (R139). -/
theorem fillGuard_tnkTake (s : State) (n : TnkRec) (refused : Bool) : FillGuard (tnkTake s n refused) := fun hopen => by
  have hboth : (n.fillOpen && fillAllowed n) = true := hopen
  exact (Bool.and_eq_true_iff.1 hboth).2

/-- START ends with the fill valve commanded CLOSED, as the reset left it (R146). -/
theorem fillGuard_endStart {s : State} (hrest : AtRest s) (good : Bool) : FillGuard (endStart s good) := by
  obtain ⟨-, -, -, -, -, -, hrested⟩ := hrest
  obtain ⟨-, -, -, -, ⟨_, _, _, htnk⟩, -⟩ := endStart_keeps s good
  rw [FillGuard, htnk, hrested]
  exact fun hopen => by cases hopen

/-- The rules of the exception bits and of the fill valve, each where it is asked for, are kept together with rest outside RUN,
from which the end of START has them. -/
theorem closed_resting_with (exceptions fill : Prop) :
    Closed fun s => Resting s ∧ (exceptions → ExceptionBits s) ∧ (fill → FillGuard s) where
  plain s ob now free mgt sig ilk hs := hs
  sys _ _ _ _ hs := hs
  queueForwarded s p q hr hs := ⟨closed_resting.queueForwarded s p q hr hs.1, by
    obtain ⟨_, _, _, h⟩ := queueForwarded_frame s p q; rw [h]; exact hs.2⟩
  queuePart s p f hr hs := ⟨closed_resting.queuePart s p f hr hs.1, by
    obtain ⟨_, _, h⟩ := queuePart_frame s p f; rw [h]; exact hs.2⟩
  attemptEnd s p b hr hs := ⟨closed_resting.attemptEnd s p b hr hs.1, by
    obtain ⟨_, _, _, h⟩ := attemptEnd_frame s p b; rw [h]; exact hs.2⟩
  ageExpiry s p i hr hs := ⟨closed_resting.ageExpiry s p i hr hs.1, by
    obtain ⟨_, _, _, _, h⟩ := ageExpiry_frame s p i; rw [h]; exact hs.2⟩
  recover s p hr hs := ⟨closed_resting.recover s p hr hs.1, by
    obtain ⟨_, _, _, h⟩ := recover_frame s p; rw [h]; exact hs.2⟩
  reissue s v hr hs := ⟨closed_resting.reissue s v hr hs.1, hs.2⟩
  unhold s l hr hsub hs := ⟨closed_resting.unhold s l hr hsub hs.1, hs.2⟩
  supersede s f p e hr hs := ⟨closed_resting.supersede s f p e hr hs.1, hs.2⟩
  place s h hr hfree hnew hs := ⟨closed_resting.place s h hr hfree hnew hs.1, hs.2⟩
  excTake s r hr hs := ⟨closed_resting.excTake s r hr hs.1, fun h => exceptionBits_excTake s r (hs.2.1 h), fun h => by
    obtain ⟨_, _, _, _, htake⟩ := excTake_frame s r; rw [htake]; exact hs.2.2 h⟩
  readHighest s hr hs :=
    ⟨closed_resting.readHighest s hr hs.1, fun h => exceptionBits_readHighest (hs.2.1 h), hs.2.2⟩
  clearFlags s hr hs := ⟨closed_resting.clearFlags s hr hs.1, fun _ => exceptionBits_clearFlags s, hs.2.2⟩
  emptyCapture s hr hs := ⟨closed_resting.emptyCapture s hr hs.1, hs.2⟩
  enter s c r hr hc hs := ⟨closed_resting.enter s c r hr hc hs.1, by
    obtain ⟨_, _, _, h⟩ := enter_frame' s c r; rw [h]; exact hs.2⟩
  outcome s c o hr hs := ⟨closed_resting.outcome s c o hr hs.1, hs.2⟩
  tnkTake s n b hr hs := ⟨closed_resting.tnkTake s n b hr hs.1, hs.2.1, fun _ => fillGuard_tnkTake s n b⟩
  runDry s hr hs := ⟨closed_resting.runDry s hr hs.1, hs.2⟩
  csuFinish s c hr hs := ⟨closed_resting.csuFinish s c hr hs.1, hs.2⟩
  activate s hr hpass hs := ⟨closed_resting.activate s hr hpass hs.1, fun h => exceptionBits_activate (hs.2.1 h), fun h => by
    obtain ⟨_, _, hmask⟩ := maskChange_frame (activate s) s.active.mask
    obtain ⟨_, _, hactivate⟩ := activate_frame s
    rw [hmask, hactivate]
    exact hs.2.2 h⟩
  powerUp s hs := ⟨closed_resting.powerUp s hs.1, fun _ => exceptionBits_of_atRest (atRest_powerUp s),
    fun _ => fillGuard_of_atRest (atRest_powerUp s)⟩
  powerDown s hs := ⟨closed_resting.powerDown s hs.1, fun _ => exceptionBits_of_atRest (atRest_powerDown s),
    fun _ => fillGuard_of_atRest (atRest_powerDown s)⟩
  lineReset s hs := ⟨closed_resting.lineReset s hs.1, fun _ => exceptionBits_of_atRest (atRest_lineReset s),
    fun _ => fillGuard_of_atRest (atRest_lineReset s)⟩
  lineRelease s hs := ⟨closed_resting.lineRelease s hs.1, by
    obtain ⟨_, _, _, h⟩ := lineRelease_frame s; rw [h]; exact hs.2⟩
  managementReset s hr hs := ⟨closed_resting.managementReset s hr hs.1,
    fun _ => exceptionBits_of_atRest (atRest_managementReset s), fun _ => fillGuard_of_atRest (atRest_managementReset s)⟩
  endStart s good hstart hgood hs := ⟨closed_resting.endStart s good hstart hgood hs.1,
    fun _ => exceptionBits_endStart (atRest_of_start hstart hs.1) good,
    fun _ => fillGuard_endStart (atRest_of_start hstart hs.1) good⟩

/-- Settles O58: rest outside RUN is kept by itself, and gives the other two what they need at the end of START. -/
theorem restExceptionsAndFillStaySound : Obligations.RestExceptionsAndFillStaySound := by
  refine ⟨fun s t hs h => closed_resting.step_keeps (fun _ _ hs => hs) hs h, fun s t hrest hs h => ?_,
    fun s t hrest hs h => ?_⟩
  · obtain ⟨-, hbits, -⟩ := (closed_resting_with True False).step_keeps (fun _ _ hs => hs) ⟨hrest, fun _ => hs, False.elim⟩ h
    exact hbits trivial
  · obtain ⟨-, -, hfill⟩ := (closed_resting_with False True).step_keeps (fun _ _ hs => hs) ⟨hrest, False.elim, fun _ => hs⟩ h
    exact hfill trivial

/-- Settles O60: at reset every block is at rest, under the fallback configuration and with both ceilings equal. -/
theorem invariantsHoldAtReset : Obligations.InvariantsHoldAtReset := by
  have hrest : AtRest State.reset := ⟨rfl, portReset_default 0, portReset_default 0, rfl, rfl, rfl, rfl⟩
  have hheld : HeldInReset State.reset := by rintro (hpower | hlow) <;> contradiction
  exact ⟨drivesExclusive_of_atRest hrest, linesFollow_of_atRest hrest, portsSound_of_atRest hrest, holdBound_of_atRest hrest,
    Nat.le_refl _, fun _ => hrest, hheld, exceptionBits_of_atRest hrest, fillGuard_of_atRest hrest, rfl, rfl⟩

end Sys2Proof.Proofs
end

section
/-! Steps and commands: the queue of commands, and the commands that have no effect (R1, R2, R13). -/

namespace Sys2Proof.Proofs

open Sys2Proof Sys2Proof.Machine Sys2Proof.Safety

/-! Steps. -/

/-- Settles O1: the queue without its front command is the state that the command finds. -/
theorem stepRunsFrontCommand : Obligations.StepRunsFrontCommand := fun _ _ => rfl

/-- With no command waiting a step takes the oldest delivery. -/
theorem step_of_delivery {s : State} {d : Instr} {ds : List Instr} (hempty : s.pending = []) (hwaits : s.outbox = d :: ds) :
    step s = exec d s := by
  simp only [step, hempty, hwaits]

/-- With neither a command nor a delivery waiting one millisecond passes. -/
theorem step_of_idle {s : State} (hempty : s.pending = []) (hnone : s.outbox = []) : step s = .next s.tick := by
  simp only [step, hempty, hnone]

/-- Settles O2: with the queue empty the oldest delivery decides (log 2). -/
theorem stepWithEmptyQueue : Obligations.StepWithEmptyQueue :=
  fun _ hempty => ⟨fun _ _ => step_of_delivery hempty, step_of_idle hempty⟩

/-! Commands and the queue. -/

/-- Every elementary operation leaves the queue of commands as it is. -/
theorem closed_pending (q : List Instr) : Closed fun s => s.pending = q where
  plain _ _ _ _ _ _ _ hs := hs
  sys _ _ _ _ hs := hs
  queueForwarded s p q _ hs := by obtain ⟨_, _, _, h⟩ := queueForwarded_frame s p q; rw [h]; exact hs
  queuePart s p f _ hs := by obtain ⟨_, _, h⟩ := queuePart_frame s p f; rw [h]; exact hs
  attemptEnd s p b _ hs := by obtain ⟨_, _, _, h⟩ := attemptEnd_frame s p b; rw [h]; exact hs
  ageExpiry s p i _ hs := by obtain ⟨_, _, _, _, h⟩ := ageExpiry_frame s p i; rw [h]; exact hs
  recover s p _ hs := by obtain ⟨_, _, _, h⟩ := recover_frame s p; rw [h]; exact hs
  reissue _ _ _ hs := hs
  unhold _ _ _ _ hs := hs
  supersede _ _ _ _ _ hs := hs
  place _ _ _ _ _ hs := hs
  excTake s r _ hs := by obtain ⟨_, _, _, _, h⟩ := excTake_frame s r; rw [h]; exact hs
  readHighest _ _ hs := hs
  clearFlags _ _ hs := hs
  emptyCapture _ _ hs := hs
  enter s c r _ _ hs := by obtain ⟨_, _, _, h⟩ := enter_frame' s c r; rw [h]; exact hs
  outcome _ _ _ _ hs := hs
  tnkTake _ _ _ _ hs := hs
  runDry _ _ hs := hs
  csuFinish _ _ _ hs := hs
  activate s _ _ hs := by
    obtain ⟨_, _, hmask⟩ := maskChange_frame (activate s) s.active.mask
    obtain ⟨_, _, hactivate⟩ := activate_frame s
    rw [hmask, hactivate]
    exact hs
  powerUp s hs := by
    simp only [powerUp]
    split <;> exact hs
  powerDown _ hs := hs
  lineReset _ hs := hs
  lineRelease s hs := by obtain ⟨_, _, _, h⟩ := lineRelease_frame s; rw [h]; exact hs
  managementReset _ _ hs := hs
  endStart s good _ _ hs := by obtain ⟨_, _, _, _, _, _, _, _, _, _, _, h⟩ := endStart_frame s good; rw [h]; exact hs

/-- No arm of `exec` faults or refuses. -/
theorem exec_completes (c : Instr) (s : State) : ∃ t, exec c s = .next t := by
  cases c <;> exact ⟨_, rfl⟩

/-- Settles O3: every arm answers a next state, and every elementary operation leaves the queue as it is. -/
theorem everyCommandCompletes : Obligations.EveryCommandCompletes := fun c s => by
  obtain ⟨t, ht⟩ := exec_completes c s
  exact ⟨t, ht, (closed_pending s.pending).exec_keeps c rfl ht⟩

/-! Commands without effect. -/

/-- Outside RUN the blocks take nothing. -/
theorem inRun_of_not_running {s : State} (h : s.sys.phase ≠ .run) (k : State → State) : s.inRun k = s := if_neg h

/-- A frame that its port does not receive does nothing. -/
theorem received_of_not_receiving {s : State} {p : Port} {begun : Nat} (h : ¬Receiving s p begun) (k : State → State) :
    s.received p begun k = s :=
  if_neg (mt (receives_iff_receiving s p begun).1 h)

/-- Outside RUN no port hands a frame inward (R2). -/
theorem received_of_not_running {s : State} (h : s.sys.phase ≠ .run) (p : Port) (begun : Nat) (k : State → State) :
    s.received p begun k = s :=
  received_of_not_receiving (fun hrec => h hrec.1) k

/-- The command of a request is its frame's reception (R3). -/
theorem exec_requestInstr (code : ReqCode) (r : Request) (s : State) :
    exec (requestInstr code r) s = .next (requestFrame code (mgtTake code) r s) := by
  cases code <;> rfl

/-- Outside RUN only line levels, the supply, the reset line and the store read act. -/
theorem exec_of_not_running {s : State} (h : s.sys.phase ≠ .run) {c : Instr} (hc : actsOutsideRun c = false) :
    exec c s = .next s := by
  cases c with
  | remoteFrame | startFrameDiscard => rfl
  | switchLevelChange | powerOn | powerFail | resetLine | resetLineRelease | storeReadCompletion | storeReadTimeout => cases hc
  | standardFrame a | frameHandledByFre a | badRequestFrame a =>
    exact congrArg Host.Outcome.next (received_of_not_running h a.port a.begun _)
  | readStatus r | readSignal r | readActive r | readShadow r | writeShadow r | revertShadow r | commit r | save r
  | readEvent r | readCapture r | clearExceptions r | clearCapture r | driveCommand r | valveCommand r | readResetCause r
  | resetPart r =>
    exact congrArg Host.Outcome.next (received_of_not_running h r.port r.begun _)
  | _ => exact congrArg Host.Outcome.next (inRun_of_not_running h _)

/-- Settles O4: outside RUN by the phase, in RUN by the test of reception. -/
theorem commandsWithoutEffect : Obligations.CommandsWithoutEffect := by
  refine ⟨fun c s hphase hc => exec_of_not_running hphase hc, fun _ _ _ _ => rfl, fun _ _ _ => rfl, fun a s hdeaf => ?_⟩
  have hnot : ¬Receiving s a.port a.begun := by
    rintro ⟨-, hoff, hbegun⟩
    rcases hdeaf with hstate | hsince
    · exact hoff hstate
    · exact Nat.not_lt.2 hsince hbegun
  refine ⟨fun id data => ?_, fun id data => ?_, fun data => ?_, fun code r hr => ?_⟩
  · exact congrArg Host.Outcome.next (received_of_not_receiving hnot _)
  · exact congrArg Host.Outcome.next (received_of_not_receiving hnot _)
  · exact congrArg Host.Outcome.next (received_of_not_receiving hnot _)
  · subst hr
    rw [exec_requestInstr]
    exact congrArg Host.Outcome.next (received_of_not_receiving hnot _)

end Sys2Proof.Proofs
end

section
/-! Frames on their way to MGT or FRE, and the form of requests and responses (R3, R178 to R180, 11 section 11.1). -/

namespace Sys2Proof.Proofs

open Sys2Proof Sys2Proof.Machine Sys2Proof.Safety

/-- MGMT_PORTS allows a port by its code (R3). -/
theorem mgmtAllows_iff (t : Tables) (p : Port) :
    t.mgmtAllows p = true ↔ t.param 3 = 2 ∨ (t.param 3 = 0 ∧ p = .cp) ∨ (t.param 3 = 1 ∧ p = .bp) := by
  unfold Tables.mgmtAllows
  split
  case h_1 h => simp [h]
  case h_2 h => simp [h]
  case h_3 h => simp [h]
  case h_4 hboth hcp hbp =>
    refine ⟨fun h => absurd h Bool.false_ne_true, fun h => ?_⟩
    rcases h with h | ⟨h, rfl⟩ | ⟨h, rfl⟩
    · exact absurd h hboth
    · exact absurd rfl (hcp h)
    · exact absurd rfl (hbp h)

/-- A frame with an extended identifier that its port receives is handed on (R3). -/
theorem exec_frameHandledByFre_of_receiving {s : State} {a : Arrival} (h : Receiving s a.port a.begun) (id : Ident)
    (data : List Byte) : exec (.frameHandledByFre a id data) s = .next (handOn s a id data) :=
  congrArg Host.Outcome.next (received_of_receiving h fun s => handOn s a id data)

/-- The frame of BAD_REQUEST_FRAME is one with the identifier MGMT_BASE (R179). -/
theorem exec_badRequestFrame (a : Arrival) (data : List Byte) (s : State) :
    exec (.badRequestFrame a data) s = exec (.frameHandledByFre a s.active.mgmtBase data) s := by
  by_cases h : Receiving s a.port a.begun
  · exact (congrArg Host.Outcome.next (received_of_receiving h _)).trans (exec_frameHandledByFre_of_receiving h _ data).symm
  · exact (congrArg Host.Outcome.next (received_of_not_receiving h _)).trans
      (congrArg Host.Outcome.next (received_of_not_receiving h _)).symm

/-- The code byte of a request names it. -/
@[simp] theorem reqCodeOf_byte (code : ReqCode) : reqCodeOf code.byte = some code := by
  cases code <;> rfl

/-- MGT finds in the 8 bytes of a request the request (11 section 11.1). -/
theorem mgtFrame_requestBytes (s : State) (code : ReqCode) (r : Request) :
    mgtFrame s r.toArrival (requestBytes r code) = mgtTake code r s := by
  have hcode : reqCodeOf ((requestBytes r code).getD 0 0) = some code := reqCodeOf_byte code
  have hlength : ¬(requestBytes r code).length < 8 := Nat.lt_irrefl 8
  have hrequest : requestOf r.toArrival (requestBytes r code) = r := rfl
  simp only [mgtFrame, hcode, if_neg hlength, hrequest]

/-- A request's bytes in a frame with MGMT_BASE are the request (R3). -/
theorem handOn_requestBytes (s : State) (code : ReqCode) (r : Request) :
    handOn s r.toArrival s.active.mgmtBase (requestBytes r code) =
      if s.active.mgmtAllows r.port = true then mgtTake code r s
      else freTake s r.toArrival (extFrame s.active.mgmtBase (requestBytes r code)) := by
  have htake : (requestBytes r code).take 8 = requestBytes r code := rfl
  simp only [handOn, true_and, htake, mgtFrame_requestBytes]

/-- A request is the frame with identifier MGMT_BASE and its 8 bytes. -/
theorem exec_requestInstr_eq_frame (code : ReqCode) (r : Request) (s : State) :
    exec (requestInstr code r) s = exec (.frameHandledByFre r.toArrival s.active.mgmtBase (requestBytes r code)) s := by
  rw [exec_requestInstr]
  by_cases h : Receiving s r.port r.begun
  · rw [exec_frameHandledByFre_of_receiving h, handOn_requestBytes]
    exact congrArg Host.Outcome.next (received_of_receiving h _)
  · exact (congrArg Host.Outcome.next (received_of_not_receiving h _)).trans
      (congrArg Host.Outcome.next (received_of_not_receiving h _)).symm

/-- Settles O6: a received frame is handed on, and `handOn` asks for MGMT_BASE and MGMT_PORTS. -/
theorem extendedFrameGoesToMgtOrFre : Obligations.ExtendedFrameGoesToMgtOrFre := by
  refine ⟨fun s a id data hrec => ⟨?_, rfl, exec_badRequestFrame a data s⟩,
    fun code r s => ⟨exec_requestInstr_eq_frame code r s, rfl⟩⟩
  rw [exec_frameHandledByFre_of_receiving hrec]
  simp only [handOn, mgmtAllows_iff]

/-! Requests at MGT. -/

/-- A request that its port receives goes by MGMT_PORTS (R3). -/
theorem exec_requestInstr_of_receiving {r : Request} {s : State} (h : Receiving s r.port r.begun) (code : ReqCode) :
    exec (requestInstr code r) s =
      .next (if s.active.mgmtAllows r.port = true then mgtTake code r s
        else freTake s r.toArrival (extFrame s.active.mgmtBase (requestBytes r code))) := by
  rw [exec_requestInstr_eq_frame, exec_frameHandledByFre_of_receiving h, handOn_requestBytes]

/-- A request that goes to MGT is taken by MGT. -/
theorem exec_requestInstr_of_toMgt {r : Request} {s : State} (h : ToMgt s r.port r.begun) (code : ReqCode) :
    exec (requestInstr code r) s = .next (mgtTake code r s) := by
  obtain ⟨hrec, hallowed⟩ := h
  rw [exec_requestInstr_of_receiving hrec, if_pos hallowed]

/-- SERVICE privilege, by slot 5 (R61, R180). -/
theorem service_iff (s : State) : s.service = true ↔ (s.slot 5).fresh = .fresh ∧ (s.slot 5).value = 1 := by
  rw [State.service, Bool.and_eq_true, beq_iff_eq, beq_iff_eq]

/-- A byte that is no code from 1 to 16 names no request. -/
theorem reqCodeOf_eq_none {b : Byte} (h : b.toNat = 0 ∨ 16 < b.toNat) : reqCodeOf b = none := by
  unfold reqCodeOf
  split
  all_goals first | rfl | omega

/-- A frame that is short, or whose code names no request, is answered BAD_REQUEST (R179). -/
theorem mgtFrame_of_bad {data : List Byte} (s : State) (a : Arrival)
    (h : data.length < 8 ∨ reqCodeOf (data.getD 0 0) = none) : mgtFrame s a data = badRequest s a.port data := by
  rw [mgtFrame]
  split
  case h_1 => rfl
  case h_2 code hcode =>
    have hshort : data.length < 8 := h.resolve_right (by rw [hcode]; exact Option.some_ne_none _)
    rw [if_pos hshort]

/-- The first bytes of a frame are those of its data cut at eight. -/
theorem getD_take {α : Type} (l : List α) (d : α) {i n : Nat} (h : i < n) : (l.take n).getD i d = l.getD i d := by
  rw [List.getD_eq_getElem?_getD, List.getD_eq_getElem?_getD, List.getElem?_take, if_pos h]

/-- MGMT_BASE + k, where it is an identifier of 29 bits. -/
theorem toNat_mgmtIdent {t : Tables} {k : Nat} (h : t.mgmtBase.toNat + k < 536870912) :
    (t.mgmtIdent k).toNat = t.mgmtBase.toNat + k := by
  have hfits : t.mgmtBase.toNat + k < 2 ^ 29 := h
  rw [Tables.mgmtIdent, if_pos hfits, BitVec.toNat_add, BitVec.toNat_ofNat]
  omega

/-- Settles O12: reception and MGMT_PORTS lead to MGT, and the forms are those of `respond`. -/
theorem requestsAndResponses : Obligations.RequestsAndResponses := by
  refine ⟨⟨fun code r s hrec => exec_requestInstr_of_receiving hrec code, fun s p => mgmtAllows_iff s.active p, service_iff,
    fun s a data hmgt hbad => ?_⟩, ⟨rfl, rfl⟩, fun _ _ _ _ _ => rfl, fun s p code tag res d hbase => ?_⟩
  · obtain ⟨hrec, hallowed⟩ := hmgt
    have hcode : (data.take 8).getD 0 0 = data.getD 0 0 := getD_take data 0 (by decide)
    have htag : (data.take 8).getD 1 0 = data.getD 1 0 := getD_take data 0 (by decide)
    have hmalformed : (data.take 8).length < 8 ∨ reqCodeOf ((data.take 8).getD 0 0) = none := by
      rw [hcode, List.length_take]
      rcases hbad with hshort | hnoCode
      · exact .inl (by omega)
      · exact .inr (reqCodeOf_eq_none hnoCode)
    calc exec (.badRequestFrame a data) s
        = .next (handOn s a s.active.mgmtBase data) := by
          rw [exec_badRequestFrame, exec_frameHandledByFre_of_receiving hrec]
      _ = .next (mgtFrame s a (data.take 8)) := congrArg Host.Outcome.next (if_pos ⟨rfl, hallowed⟩)
      _ = .next (badRequest s a.port (data.take 8)) := by rw [mgtFrame_of_bad s a hmalformed]
      _ = _ := by rw [badRequest, hcode, htag]
  · exact ⟨s.active.mgmtIdent 1, toNat_mgmtIdent hbase, rfl⟩

end Sys2Proof.Proofs
end

section
/-! The transmit queues at their commands: the two queuing requests, the arbiter, the end of an attempt and the timers (R6 to
R13). -/

namespace Sys2Proof.Proofs

open Sys2Proof Sys2Proof.Machine Sys2Proof.Safety

/-! The request to queue a forwarded frame, its cases in order (R6). -/

/-- A port in OFF loses the frame (R6 case 1). -/
theorem queueForwarded_of_off {s : State} {p : Port} (q : ForwardRequest) (h : (s.port p).state = .off) :
    queueForwarded s p q = s.raise (txDiscard s q.frame q.arrival q.entry .portOff) := by
  simp only [queueForwarded, if_pos h]

/-- A frame with the mark coalesces where it can (R6 case 2). -/
theorem queueForwarded_of_coalesce {s : State} {p : Port} {q : ForwardRequest} {ws : List QueuedFrame}
    (hoff : (s.port p).state ≠ .off) (hmark : q.mark = true) (hcoalesce : coalesce q (s.port p).waiting = some ws) :
    queueForwarded s p q = s.setPort p { s.port p with waiting := ws } := by
  simp only [queueForwarded, if_neg hoff, if_pos hmark, hcoalesce]

/-- Behind cases 1 and 2 the forwarded share decides (R6 cases 3 and 4). -/
theorem queueForwarded_of_no_coalesce {s : State} {p : Port} {q : ForwardRequest} (hoff : (s.port p).state ≠ .off)
    (hnone : q.mark = false ∨ coalesce q (s.port p).waiting = none) :
    queueForwarded s p q =
      if 14 ≤ (s.port p).forwardedDepth then s.raise (txDiscard s q.frame q.arrival q.entry .full)
      else s.setPort p ((s.port p).add
        { frame := q.frame, kind := .forwarded q.arrival q.entry (s.now + s.active.txAge), mark := q.mark }) := by
  have hfound : (if q.mark = true then coalesce q (s.port p).waiting else none) = none := by
    rcases hnone with hmark | hcoalesce
    · rw [hmark]; rfl
    · rw [hcoalesce, ite_self]
  simp only [queueForwarded, if_neg hoff, hfound]
  rfl

/-- A frame with the mark and the same identifier and format that does not coalesce is part-originated. -/
theorem kind_of_not_coalesces {q : ForwardRequest} {x : QueuedFrame} (h : ¬coalescesWith q x) (hmark : x.mark = true)
    (hident : x.frame.ident = q.frame.ident) (hext : x.frame.ext = q.frame.ext) : x.kind = .part := by
  cases hkind : x.kind with
  | part => rfl
  | forwarded arrival entry deadline => exact absurd ⟨⟨arrival, entry, deadline, hkind⟩, hmark, hident, hext⟩ h

/-- In RUN the command of a queuing request is the request. -/
theorem exec_queueForwardedFrame_of_running {s : State} (h : Running s) (p : Port) (q : ForwardRequest) :
    exec (.queueForwardedFrame p q) s = .next (queueForwarded s p q) :=
  congrArg Host.Outcome.next (inRun_of_running h fun s => queueForwarded s p q)

/-- Settles O7: the request by its cases, and coalescing by the oldest frame that coalesces. -/
theorem queueForwardedCases : Obligations.QueueForwardedCases := by
  refine ⟨fun s p q hrun => ?_, fun q l l' h => ?_, fun q l => ?_⟩
  · intro out lost
    have hout : out = .next (queueForwarded s p q) := exec_queueForwardedFrame_of_running hrun p q
    refine ⟨fun hoff => ?_, fun hoff => ⟨fun ws hmark hcoalesce => ?_, fun hnone => ⟨fun hfull => ?_, fun hroom => ?_⟩⟩⟩
    · rw [hout, queueForwarded_of_off q hoff]; rfl
    · rw [hout, queueForwarded_of_coalesce hoff hmark hcoalesce]
    · rw [hout, queueForwarded_of_no_coalesce hoff hnone, if_pos hfull]; rfl
    · rw [hout, queueForwarded_of_no_coalesce hoff hnone, if_neg (Nat.not_le.2 hroom)]; rfl
  · obtain ⟨before, w, after, arrival, entry, deadline, hl, hkind, hmark, hident, hext, hl', hbefore⟩ := coalesce_some h
    exact ⟨before, w, after, arrival, entry, deadline, hl, hkind, hmark, hident, hext, hl',
      fun x hx => kind_of_not_coalesces (hbefore x hx)⟩
  · rw [coalesce_eq_none_iff]
    refine ⟨fun h => ?_, fun h w hw hcoalesces => h ?_⟩
    · rintro ⟨w, hw, arrival, entry, deadline, hkind, hrest⟩
      exact h w hw ⟨⟨arrival, entry, deadline, hkind⟩, hrest⟩
    · obtain ⟨⟨arrival, entry, deadline, hkind⟩, hrest⟩ := hcoalesces
      exact ⟨w, hw, arrival, entry, deadline, hkind, hrest⟩

/-! The request to queue a part-originated frame (R7). -/

/-- A part-originated frame is one that is not forwarded. -/
theorem not_isForwarded_eq (q : QueuedFrame) : (!q.isForwarded) = decide (q.kind = .part) := by
  rw [QueuedFrame.isForwarded]
  cases q.kind <;> rfl

/-- In OFF, or with its share full, the frame is lost (R7). -/
theorem queuePart_of_no_room {s : State} {p : Port} (f : Frame) (h : (s.port p).state = .off ∨ 2 ≤ (s.port p).partDepth) :
    queuePart s p f = s := by
  have hlost : ((s.port p).state = .off || Config.partShare ≤ (s.port p).partDepth) = true := by
    rw [Bool.or_eq_true, decide_eq_true_eq, decide_eq_true_eq]; exact h
  simp only [queuePart, if_pos hlost]

/-- Elsewhere the frame is added (R7). -/
theorem queuePart_of_room {s : State} {p : Port} (f : Frame) (hoff : (s.port p).state ≠ .off) (hroom : (s.port p).partDepth < 2) :
    queuePart s p f = s.setPort p ((s.port p).add { frame := f, kind := .part, mark := false }) := by
  have hnot : ¬((s.port p).state = .off || Config.partShare ≤ (s.port p).partDepth) = true := by
    rw [Bool.or_eq_true, decide_eq_true_eq, decide_eq_true_eq]
    exact not_or.2 ⟨hoff, Nat.not_le.2 hroom⟩
  simp only [queuePart, if_neg hnot]

/-- Settles O8: the shares split the queue, and the request is lost or added by them. -/
theorem queuePartCases : Obligations.QueuePartCases := by
  refine ⟨fun r => ?_, fun s p f hrun => ?_⟩
  · intro all
    have hpart : r.partDepth = all.countP fun q => decide (q.kind = .part) := by
      rw [partDepth_eq]
      exact List.countP_congr fun q _ => by rw [not_isForwarded_eq]
    refine ⟨hpart, ?_⟩
    have hsplit : all.length = all.countP QueuedFrame.isForwarded + all.countP fun q => decide ¬q.isForwarded = true :=
      List.length_eq_countP_add_countP QueuedFrame.isForwarded
    rw [forwardedDepth_eq, partDepth_eq, hsplit]
    exact congrArg _ (List.countP_congr fun q _ => by simp)
  · intro out
    have hout : out = .next (queuePart s p f) := congrArg Host.Outcome.next (inRun_of_running hrun fun s => queuePart s p f)
    exact ⟨fun hlost => by rw [hout, queuePart_of_no_room f hlost],
      fun hoff hroom => by rw [hout, queuePart_of_room f hoff hroom]⟩

/-! The arbiter. -/

/-- Within a format the rank goes by the identifier (R8). -/
theorem rankKey_le_of_same_format {f g : Frame} (h : f.ext = g.ext) :
    rankKey f ≤ rankKey g ↔ f.ident.toNat ≤ g.ident.toNat := by
  rw [rankKey, rankKey, h]
  cases g.ext
  · simp only [Bool.false_eq_true, if_false]; omega
  · simp only [if_true]; omega

/-- A standard frame ranks before an extended one whose eleven highest bits are its own, and never ties with one (R8). -/
theorem rankKey_standard_extended {f g : Frame} (hf : f.ext = false) (hg : g.ext = true) :
    (rankKey f < rankKey g ↔ f.ident.toNat ≤ g.ident.toNat / 262144) ∧
      (rankKey g < rankKey f ↔ g.ident.toNat / 262144 < f.ident.toNat) := by
  rw [rankKey, rankKey, hf, hg]
  simp only [Bool.false_eq_true, if_false, if_true]
  omega

/-- Settles O9: the arbiter is `takeFirst`, which keeps the order of the frames it leaves. -/
theorem arbiterTakesFirstRanked : Obligations.ArbiterTakesFirstRanked := by
  refine ⟨⟨fun _ _ => rfl, fun r => arbitrate_of_idle, fun r hoff hflight hwaiting => ?_⟩,
    fun f g => ⟨rankKey_le_of_same_format, rankKey_standard_extended⟩⟩
  obtain ⟨⟨q, rest⟩, hfirst⟩ := Option.ne_none_iff_exists'.1 (mt (takeFirst_eq_none_iff r.waiting).1 hwaiting)
  obtain ⟨before, after, hw, hrest, hbefore, hafter⟩ := takeFirst_some hfirst
  refine ⟨before, q, after, hw, ?_, hbefore, hafter⟩
  rw [arbitrate_of_takeFirst hoff hflight hfirst, hrest]

/-! The end of a transmit attempt. -/

/-- Below 256 a port is ACTIVE or in WARN by its count (R11). -/
theorem countState_of_lt {n : Nat} (h : n < 256) : countState n = if n < 96 then .active else .warn := by
  have hbelow : ¬Config.offCount ≤ n := Nat.not_le.2 h
  rw [countState, if_neg hbelow, Config.warnCount]
  by_cases hn : n < 96
  · rw [if_neg (Nat.not_le.2 hn), if_pos hn]
  · rw [if_pos (Nat.le_of_not_lt hn), if_neg hn]

/-- The state is WARN exactly from 96 to 255 (R11). -/
theorem countState_eq_warn_iff {n : Nat} (h : n < 256) : countState n = .warn ↔ 96 ≤ n := by
  rw [countState_of_lt h]
  split
  case isTrue hn => exact ⟨fun hc => (by cases hc), fun hle => absurd hn (Nat.not_lt.2 hle)⟩
  case isFalse hn => exact ⟨fun _ => Nat.le_of_not_lt hn, fun _ => rfl⟩

/-- With a frame in flight a sound port is not in OFF. -/
theorem not_off_of_inFlight {r : PortRec} (h : PortSound r) (hflight : r.inFlight ≠ none) : r.state ≠ .off :=
  fun hoff => hflight (frames_of_portSound_off h hoff).1

/-- An attempt ends where a frame is in flight on a port outside OFF. -/
theorem attemptEnd_of_inFlight {s : State} {p : Port} (hoff : (s.port p).state ≠ .off) (hflight : (s.port p).inFlight ≠ none)
    (success : Bool) :
    attemptEnd s p success = if success = true then s.setPort p (s.port p).succeed else failAttempt s p := by
  simp only [attemptEnd, if_neg (not_or.2 ⟨hoff, hflight⟩)]

theorem exec_transmitAttemptEnd_of_running {s : State} (h : Running s) (p : Port) (success : Bool) :
    exec (.transmitAttemptEnd p success) s = .next (attemptEnd s p success) :=
  congrArg Host.Outcome.next (inRun_of_running h fun s => attemptEnd s p success)

/-- A failed attempt that reaches 256 (R12). -/
theorem failAttempt_of_reaches {s : State} {p : Port} (h : 256 ≤ (s.port p).count + 8) :
    failAttempt s p =
      (s.setPort p ((s.port p).off (s.now + s.active.portRecovery))).raise (portRaise s .portOff p) := by
  have hcount : failedCount (s.port p).count = Config.offCount := by rw [failedCount, Config.offCount]; omega
  simp only [failAttempt, if_pos hcount]

/-- A failed attempt below 256: the count and state, PORT_WARN at an entry to WARN, then the frame in flight (R9, R11). -/
theorem failAttempt_of_below {s : State} {p : Port} (h : (s.port p).count + 8 < 256) :
    failAttempt s p =
      retryOrDrop
        (if (s.port p).state = .active ∧ 96 ≤ (s.port p).count + 8 then
          (s.setPort p { s.port p with
            count := (s.port p).count + 8, state := if (s.port p).count + 8 < 96 then .active else .warn }).raise
              (portRaise s .portWarn p)
        else s.setPort p { s.port p with
          count := (s.port p).count + 8, state := if (s.port p).count + 8 < 96 then .active else .warn }) p := by
  have hcount : failedCount (s.port p).count = (s.port p).count + 8 := by rw [failedCount, Config.offCount]; omega
  have hbelow : ¬(s.port p).count + 8 = Config.offCount := by rw [Config.offCount]; omega
  simp only [failAttempt, hcount, if_neg hbelow, countState_eq_warn_iff h]
  rw [countState_of_lt h]

/-- A forwarded frame in flight past its deadline leaves the queue with TX_DISCARD STALE (R9). -/
theorem retryOrDrop_of_past {s : State} {p : Port} {f : Frame} {arrival : Port} {entry : Option (Fin 96)} {deadline : Nat}
    {mark : Bool} (hflight : (s.port p).inFlight = some { frame := f, kind := .forwarded arrival entry deadline, mark := mark })
    (hpast : deadline ≤ s.now) :
    retryOrDrop s p =
      (s.setPort p (PortRec.arbitrate { s.port p with inFlight := none })).raise (txDiscard s f arrival entry .stale) := by
  simp only [retryOrDrop, hflight, if_pos hpast]

/-- A forwarded frame in flight before its deadline stays for a further attempt (R9). -/
theorem retryOrDrop_of_before {s : State} {p : Port} {f : Frame} {arrival : Port} {entry : Option (Fin 96)} {deadline : Nat}
    {mark : Bool} (hflight : (s.port p).inFlight = some { frame := f, kind := .forwarded arrival entry deadline, mark := mark })
    (hbefore : s.now < deadline) : retryOrDrop s p = s := by
  simp only [retryOrDrop, hflight, if_neg (Nat.not_le.2 hbefore)]

/-- A part-originated frame in flight stays (R9). -/
theorem retryOrDrop_of_part {s : State} {p : Port} {f : Frame} {mark : Bool}
    (hflight : (s.port p).inFlight = some { frame := f, kind := .part, mark := mark }) : retryOrDrop s p = s := by
  simp only [retryOrDrop, hflight]

/-- Settles O10: a success by `succeed`, a failure by its count, and below 256 by the frame in flight. -/
theorem transmitAttemptsEnd : Obligations.TransmitAttemptsEnd := by
  refine ⟨fun s p hrun hsound hflight => ?_, fun s p q hrun hsound hflight => ?_⟩
  · have hoff := not_off_of_inFlight hsound hflight
    have hcount := count_lt_of_portSound hsound hoff
    have hbelow : (s.port p).count - 1 < 256 := by omega
    rw [exec_transmitAttemptEnd_of_running hrun, attemptEnd_of_inFlight hoff hflight, if_pos rfl, PortRec.succeed,
      countState_of_lt hbelow]
  · intro r out
    have hsome : r.inFlight ≠ none := by rw [hflight]; exact Option.some_ne_none q
    have hfails : attemptEnd s p false = failAttempt s p :=
      (attemptEnd_of_inFlight (not_off_of_inFlight hsound hsome) hsome false).trans (if_neg Bool.false_ne_true)
    have hout : out = .next (failAttempt s p) :=
      (exec_transmitAttemptEnd_of_running hrun p false).trans (congrArg Host.Outcome.next hfails)
    refine ⟨fun hreaches => ?_, fun hbelow => ?_⟩
    · rw [hout, failAttempt_of_reaches hreaches]; rfl
    · intro r1 s1
      have hfail : out = .next (retryOrDrop s1 p) := by rw [hout, failAttempt_of_below hbelow]; rfl
      have hport : s1.port p = r1 := by
        show State.port (if _ then _ else _) p = r1
        split <;> simp [r1]
      have hnow : s1.now = s.now := by
        show State.now (if _ then _ else _) = s.now
        split <;> simp
      have hmode : s1.ilk = s.ilk := by
        show State.ilk (if _ then _ else _) = s.ilk
        split <;> simp
      have hinFlight : (s1.port p).inFlight = some q := by rw [hport]; exact hflight
      obtain ⟨f, kind, mark⟩ := q
      refine ⟨fun arrival entry deadline hkind hpast => ?_, fun hkind => ?_, fun arrival entry deadline hkind hbefore => ?_⟩
      · simp only at hkind
        subst hkind
        rw [hfail, retryOrDrop_of_past hinFlight (hnow ▸ hpast), hport, txDiscard, hmode]
      · simp only at hkind
        subst hkind
        rw [hfail, retryOrDrop_of_part hinFlight]
      · simp only at hkind
        subst hkind
        rw [hfail, retryOrDrop_of_before hinFlight (hnow ▸ hbefore)]

/-! The timers of a port. -/

/-- The age deadline of a waiting forwarded frame (R10). -/
theorem ageExpiry_of_forwarded {s : State} {p : Port} {i : Nat} {f : Frame} {arrival : Port} {entry : Option (Fin 96)}
    {deadline : Nat} {mark : Bool}
    (h : (s.port p).waiting[i]? = some { frame := f, kind := .forwarded arrival entry deadline, mark := mark }) :
    ageExpiry s p i =
      ((s.clock deadline).setPort p
        (PortRec.arbitrate { s.port p with waiting := (s.port p).waiting.eraseIdx i })).raise
          (txDiscard s f arrival entry .stale) := by
  simp only [ageExpiry, h]

/-- The recovery timer of a port in OFF (R13). -/
theorem recover_of_off {s : State} {p : Port} {t : Nat} (hoff : (s.port p).state = .off)
    (htimer : (s.port p).recovery = some t) :
    recover s p = (s.clock t).setPort p
      { s.port p with state := .active, count := 0, recovery := none, since := max s.now t } := by
  simp only [recover, hoff, htimer]

/-- Settles O11: each timer's operation in the state in which it runs. -/
theorem portTimersExpire : Obligations.PortTimersExpire := by
  refine ⟨fun _ _ => rfl, fun s p i q arrival entry deadline hrun hwaits hkind => ?_, fun s p t hrun hoff htimer => ?_⟩
  · obtain ⟨f, kind, mark⟩ := q
    simp only at hkind
    subst hkind
    exact (congrArg Host.Outcome.next (inRun_of_running hrun fun s => ageExpiry s p i)).trans
      (congrArg Host.Outcome.next (ageExpiry_of_forwarded hwaits))
  · exact (congrArg Host.Outcome.next (inRun_of_running hrun fun s => recover s p)).trans
      (congrArg Host.Outcome.next (recover_of_off hoff htimer))

end Sys2Proof.Proofs
end

section
/-! The judgement of a request (R180), and the requests that read: READ_STATUS, READ_SIGNAL, READ_ACTIVE and READ_SHADOW (R17, R66,
R118, R147, R161, R181, R183). -/

namespace Sys2Proof.Proofs

open Sys2Proof Sys2Proof.Machine Sys2Proof.Safety

/-! Judgement. -/

/-- The first judgement that fails is answered. -/
theorem judgedBy_of_refusal {refusals : List (Option Result)} {res : Result} (h : firstRefusal refusals = some res) (s : State)
    (code : ReqCode) (r : Request) (k : State) : judgedBy s code r refusals k = reply s code r res [] := by
  rw [judgedBy, h]

/-- A request that no judgement refuses is taken. -/
theorem judgedBy_of_none {refusals : List (Option Result)} (h : firstRefusal refusals = none) (s : State) (code : ReqCode)
    (r : Request) (k : State) : judgedBy s code r refusals k = k := by
  rw [judgedBy, h]

/-- Without SERVICE a request that needs it is refused (R180). -/
theorem judgeService_of_not {s : State} (h : s.service = false) : judgeService s = some .refusedPrivilege := by
  rw [judgeService, h]; rfl

theorem judgeService_of_service {s : State} (h : s.service = true) : judgeService s = none := by
  rw [judgeService, h]; rfl

/-- Where both operand errors are present, one of the two results answers (log 17). -/
theorem judgeOperands_of_both (code : ReqCode) :
    ∃ res, (res = Result.badIndex ∨ res = .badRequest) ∧ judgeOperands code true true = some res := by
  rw [judgeOperands]
  split
  · exact ⟨_, .inl rfl, rfl⟩
  · exact ⟨_, .inr rfl, rfl⟩

/-! READ_STATUS. -/

/-- The command answers the data of its selector (R181). -/
theorem exec_readStatus_of_data {r : Request} {s : State} (h : ToMgt s r.port r.begun) {data : List Byte}
    (hdata : statusData s r.b2.toNat = some data) :
    exec (.readStatus r) s = .next (reply s.drawn .readStatus r .ok data) := by
  have htake : mgtReadStatus r s = reply s.drawn .readStatus r .ok data := by rw [mgtReadStatus, hdata]
  exact (exec_requestInstr_of_toMgt h .readStatus).trans (congrArg Host.Outcome.next htake)

/-- There is no selector above 9 (R181). -/
theorem statusData_eq_none {s : State} {sel : Nat} (h : 9 < sel) : statusData s sel = none := by
  unfold statusData
  split
  all_goals first | rfl | omega

/-- A byte of fields is the sum of their values, each at its bit. -/
theorem packByte_eq_sum (fs : List (Nat × Nat)) : packByte fs = BitVec.ofNat 8 (fs.map fun f => f.1 * 2 ^ f.2).sum := by
  have hsum : fs.foldr (fun f acc => f.1 * 2 ^ f.2 + acc) 0 = (fs.map fun f => f.1 * 2 ^ f.2).sum := by
    rw [List.sum_eq_foldr, List.foldr_map]
  rw [packByte, hsum]

/-- The last outcome byte by the table of 11 section 11.2. -/
theorem outcomeByte_eq (o : Option DriveOutcome) : outcomeByte o = lowByte (outcomeCode o) := by
  rcases o with _ | _ | why | why | why
  · rfl
  · rfl
  all_goals cases why <;> rfl

/-- A flag that tells whether an optional value is there. -/
theorem flagNat_isSome {α : Type} [DecidableEq α] (o : Option α) : flagNat o.isSome = if o = none then 0 else 1 := by
  cases o <;> rfl

/-- Selector 0, with the two bytes of the last commit outcome apart. -/
theorem generalStatus_eq (s : State) : generalStatus s =
    [packByte [(modeCode s.ilk.mode, 0), (if s.tnk.supply = .hydrant then 1 else 0, 3),
        (match s.csu.sup with | .disarmed => 0 | .armed => 1 | .lapsed => 2, 4), (flagNat s.exc.summary, 6),
        (flagNat s.service, 7)],
      packByte [(flagNat s.mgt.modified, 0), (if s.mgt.save = none then 0 else 1, 1),
        (match s.mgt.lastCommit with | .none => 0 | .ok => 1 | .rejected _ _ => 2, 2), (flagNat s.sys.fallback, 4)]] ++
      commitBytes s := by
  have hsupply : flagNat (s.tnk.supply == .hydrant) = if s.tnk.supply = .hydrant then 1 else 0 := by
    cases s.tnk.supply <;> rfl
  have hsup : supervisionCode s.csu.sup = match s.csu.sup with | .disarmed => 0 | .armed => 1 | .lapsed => 2 := by
    cases s.csu.sup <;> rfl
  have hcommit : commitCode s.mgt.lastCommit =
      match s.mgt.lastCommit with | .none => 0 | .ok => 1 | .rejected _ _ => 2 := by
    cases s.mgt.lastCommit <;> rfl
  rw [generalStatus, hsupply, hsup, hcommit, flagNat_isSome]
  rfl

/-- The two bytes of the last commit outcome: those of its record, where it has one. -/
theorem commitBytes_eq (s : State) : ∃ table index, commitBytes s = [table, index] ∧
    ∀ tb ix, s.mgt.lastCommit = .rejected tb ix → table = lowByte tb ∧ index = lowByte ix := by
  unfold commitBytes
  split
  case h_1 t i h =>
    refine ⟨_, _, rfl, fun tb ix hrejected => ?_⟩
    rw [h, CommitOutcome.rejected.injEq] at hrejected
    obtain ⟨rfl, rfl⟩ := hrejected
    exact ⟨rfl, rfl⟩
  case h_2 h => exact ⟨_, _, rfl, fun tb ix hrejected => absurd hrejected (h tb ix)⟩

/-- Selectors 1 to 3, with the codes written out (R118). -/
theorem channelStatus_eq (s : State) (c : Channel) :
    let left := match (s.chan c).timer with | none => 0 | some (_, t) => t - s.now
    channelStatus s c =
      [lowByte (driveCode (s.chan c).state),
        packByte [
          (match (s.chan c).timer with | none => 0 | some (.settle, _) => 1 | some (.verify, _) => 2 | some (.release, _) => 3, 0),
          (match (s.chan c).origin with | none => 0 | some .signal => 1 | some .management => 2, 2)],
        lowByte left, highByte left, lowByte (outcomeCode (s.chan c).outcome)] := by
  intro left
  have hleft : timeLeft s.now (s.chan c).timer = left := by
    show timeLeft s.now (s.chan c).timer = match (s.chan c).timer with | none => 0 | some (_, t) => t - s.now
    rcases (s.chan c).timer with _ | ⟨_, _⟩ <;> rfl
  have htimer : timerCode (s.chan c).timer =
      match (s.chan c).timer with | none => 0 | some (.settle, _) => 1 | some (.verify, _) => 2 | some (.release, _) => 3 := by
    rcases (s.chan c).timer with _ | ⟨kind, _⟩
    · rfl
    · cases kind <;> rfl
  have horigin : originCode (s.chan c).origin =
      match (s.chan c).origin with | none => 0 | some .signal => 1 | some .management => 2 := by
    rcases (s.chan c).origin with _ | origin
    · rfl
    · cases origin <;> rfl
  rw [channelStatus, hleft, htimer, horigin, outcomeByte_eq]

/-- Selectors 4 to 6, with the bytes of the level in use apart (R147). -/
theorem tankStatus_eq (s : State) (k : Tank) :
    ∃ low high : Byte,
      tankStatus s k =
        [low, high,
          packByte [(bandCode (s.tnk.tank k).band, 0),
            (match (s.tnk.tank k).sender with | .good => 0 | .suspect => 1 | .failed => 2, 3),
            (match (s.tnk.tank k).source with | .sender => 0 | .estimate => 1 | .none => 2, 5),
            (if (s.tnk.tank k).level = none then 0 else 1, 7)],
          packByte ([((s.tnk.tank k).strikes % 4, 0), ((s.tnk.tank k).agree % 4, 2)] ++
            if k = .water then
              [(flagNat s.tnk.tankOpen, 4), (flagNat s.tnk.override, 5), (flagNat s.tnk.fillOpen, 6),
                (if s.tnk.runDry = none then 0 else 1, 7)]
            else [])] ∧
      ∀ v, (s.tnk.tank k).level = some v → low = lowByte v.toNat ∧ high = highByte v.toNat := by
  have hsender : senderCode (s.tnk.tank k).sender =
      match (s.tnk.tank k).sender with | .good => 0 | .suspect => 1 | .failed => 2 := by
    cases (s.tnk.tank k).sender <;> rfl
  have hsource : sourceCode (s.tnk.tank k).source =
      match (s.tnk.tank k).source with | .sender => 0 | .estimate => 1 | .none => 2 := by
    cases (s.tnk.tank k).source <;> rfl
  have hvalves : valveFields s.tnk k = if k = .water then
      [(flagNat s.tnk.tankOpen, 4), (flagNat s.tnk.override, 5), (flagNat s.tnk.fillOpen, 6),
        (if s.tnk.runDry = none then 0 else 1, 7)] else [] := by
    cases k with
    | water => rw [valveFields, flagNat_isSome]; rfl
    | foamA | foamB => rfl
  rw [tankStatus, hsender, hsource, hvalves, flagNat_isSome]
  cases hlevel : (s.tnk.tank k).level with
  | none => exact ⟨_, _, rfl, fun v hv => by cases hv⟩
  | some l =>
    refine ⟨_, _, rfl, fun v hv => ?_⟩
    rw [Option.some.injEq] at hv
    rw [hv]
    exact ⟨rfl, rfl⟩

/-- Selector 7 (R161). -/
theorem ceilingStatus_eq (s : State) : ceilingStatus s =
    [lowByte s.csu.target.toNat, highByte s.csu.target.toNat, lowByte s.csu.applied.toNat, highByte s.csu.applied.toNat,
      lowByte (match s.csu.ramp with | none => 0 | some t => max 1 ((t - s.now + 3) / 4))] := by
  have hramp : rampLeft s.now s.csu.ramp = match s.csu.ramp with | none => 0 | some t => max 1 ((t - s.now + 3) / 4) := by
    cases s.csu.ramp <;> rfl
  rw [ceilingStatus, hramp]

/-- A port's byte of selector 8 (R17). -/
theorem portByte_eq (p : PortRec) : portByte p =
    packByte [(p.count / 256 % 2, 0), (match p.state with | .active => 0 | .warn => 1 | .off => 2, 1),
      ((p.inFlight.toList ++ p.waiting).countP (fun q => !q.isForwarded) % 4, 3)] := by
  have hstate : portStateCode p.state = match p.state with | .active => 0 | .warn => 1 | .off => 2 := by
    cases p.state <;> rfl
  rw [portByte, hstate, partDepth_eq]
  rfl

/-- Selector 8, with the depths counted (R17). -/
theorem portStatus_eq (s : State) : portStatus s =
    [lowByte s.cp.count, portByte s.cp,
      packByte [((s.cp.inFlight.toList ++ s.cp.waiting).countP QueuedFrame.isForwarded % 16, 0),
        ((s.bp.inFlight.toList ++ s.bp.waiting).countP QueuedFrame.isForwarded % 16, 4)],
      lowByte s.bp.count, portByte s.bp] := by
  rw [portStatus, forwardedDepth_eq, forwardedDepth_eq]
  rfl

/-! READ_SIGNAL. -/

/-- The data of READ_SIGNAL, with age and writer written out (R45, R66). -/
theorem signalData_eq (s : State) (i : Fin 32) :
    let x := s.slot i
    let age := if x.fresh = .never then 65535 else min (s.now - x.writtenAt) 65535
    let writer := match x.writer with | .entry e => e.val | .line => 96 | .none => 127
    signalData s i =
      [lowByte x.value.toNat, highByte x.value.toNat, lowByte age, highByte age,
        lowByte (writer + if x.fresh = .stale then 128 else 0)] := by
  intro x age writer
  have hage : x.age s.now = age := by
    rw [SlotRec.age, Nat.min_comm]
  have hwriter : writerByte x = lowByte (writer + if x.fresh = .stale then 128 else 0) := by
    show lowByte (if x.fresh = .stale then writer + 128 else writer) = _
    split <;> rfl
  rw [signalData, hage, hwriter]

/-- The command answers the slot's data (R66). -/
theorem exec_readSignal_of_slot {r : Request} {s : State} (h : ToMgt s r.port r.begun) {i : Fin 32} (hi : r.b2.toNat = i.val) :
    exec (.readSignal r) s = .next (reply s .readSignal r .ok (signalData s i)) := by
  have hslot : r.b2.toNat < 32 := hi ▸ i.isLt
  have hfin : (⟨r.b2.toNat, hslot⟩ : Fin 32) = i := Fin.ext hi
  have htake : mgtReadSignal r s = reply s .readSignal r .ok (signalData s i) := by rw [mgtReadSignal, dif_pos hslot, hfin]
  exact (exec_requestInstr_of_toMgt h .readSignal).trans (congrArg Host.Outcome.next htake)

/-- A byte is its number. -/
theorem statusData_of_eq {r : Request} {n : Byte} (h : r.b2 = n) (s : State) : statusData s r.b2.toNat = statusData s n.toNat := by
  rw [h]

/-- Settles O13: each selector by its own equation, READ_SIGNAL by the slot's. -/
theorem statusAndSignalReads : Obligations.StatusAndSignalReads := by
  refine ⟨⟨fun n => ⟨rfl, rfl⟩, packByte_eq_sum, rfl, rfl, rfl, rfl, rfl, rfl, rfl⟩, fun r s hmgt => ?_⟩
  refine ⟨fun habove => ?_, fun hzero => ?_, fun c hc => ?_, fun k hk => ?_, fun hseven => ?_, fun height => ?_,
    fun hnine => ?_, fun habove => ?_, fun i hi => ?_⟩
  · have htake : mgtReadStatus r s = reply s .readStatus r .badIndex [] := by rw [mgtReadStatus, statusData_eq_none habove]
    exact (exec_requestInstr_of_toMgt hmgt .readStatus).trans (congrArg Host.Outcome.next htake)
  · obtain ⟨table, index, hbytes, hrecord⟩ := commitBytes_eq s
    refine ⟨table, index, ?_, hrecord⟩
    have hdata : statusData s r.b2.toNat = some (generalStatus s) := statusData_of_eq hzero s
    rw [exec_readStatus_of_data hmgt hdata, generalStatus_eq, hbytes]
    rfl
  · have hdata : statusData s r.b2.toNat = some (channelStatus s c) := by rw [hc]; cases c <;> rfl
    exact exec_readStatus_of_data hmgt (hdata.trans (congrArg some (channelStatus_eq s c)))
  · have hdata : statusData s r.b2.toNat = some (tankStatus s k) := by rw [hk]; cases k <;> rfl
    obtain ⟨low, high, hbytes, hlevel⟩ := tankStatus_eq s k
    refine ⟨low, high, ?_, hlevel⟩
    exact exec_readStatus_of_data hmgt (hdata.trans (congrArg some hbytes))
  · have hdata : statusData s r.b2.toNat = some (ceilingStatus s) := statusData_of_eq hseven s
    exact exec_readStatus_of_data hmgt (hdata.trans (congrArg some (ceilingStatus_eq s)))
  · have hdata : statusData s r.b2.toNat = some (portStatus s) := statusData_of_eq height s
    intro frames forwarded part state
    have hbytes := portStatus_eq s
    rw [portByte_eq, portByte_eq] at hbytes
    exact exec_readStatus_of_data hmgt (hdata.trans (congrArg some hbytes))
  · exact exec_readStatus_of_data hmgt (statusData_of_eq hnine s)
  · have htake : mgtReadSignal r s = reply s .readSignal r .badIndex [] := by
      rw [mgtReadSignal, dif_neg (Nat.not_lt.2 habove)]
    exact (exec_requestInstr_of_toMgt hmgt .readSignal).trans (congrArg Host.Outcome.next htake)
  · intro x age writer
    exact (exec_readSignal_of_slot hmgt hi).trans
      (congrArg (fun data => Host.Outcome.next (reply s .readSignal r .ok data)) (signalData_eq s i))

end Sys2Proof.Proofs
end

section
/-! Parts of records: reading and writing them, READ_ACTIVE, READ_SHADOW, WRITE_SHADOW and REVERT_SHADOW (R182 to R185). -/

namespace Sys2Proof.Proofs

open Sys2Proof Sys2Proof.Machine Sys2Proof.Safety

/-! Which parts exist. -/

/-- A part can be read exactly where it exists (R183). -/
theorem readPart_isSome_iff (t : Tables) : ∀ tb ix pt, (t.readPart tb ix pt).isSome = true ↔ partExists tb ix pt
  | 0, _, _ | 1, _, _ | 2, _, _ | 3, _, _ | 4, _, _ | 5, _, _ | 6, _, _ | 7, _, _ => Option.isSome_dite
  | _ + 8, _, _ => ⟨fun h => absurd h Bool.false_ne_true, fun h => absurd h.1 (Nat.not_lt_zero _)⟩

/-- A part can be written exactly where it exists (R184). -/
theorem writePart_isSome_iff (t : Tables) (v : Image4) :
    ∀ tb ix pt, (t.writePart tb ix pt v).isSome = true ↔ partExists tb ix pt
  | 0, _, _ | 1, _, _ | 2, _, _ | 3, _, _ | 4, _, _ | 5, _, _ | 6, _, _ | 7, _, _ => Option.isSome_dite
  | _ + 8, _, _ => ⟨fun h => absurd h Bool.false_ne_true, fun h => absurd h.1 (Nat.not_lt_zero _)⟩

theorem readPart_eq_none {tb ix pt : Nat} (h : ¬partExists tb ix pt) (t : Tables) : t.readPart tb ix pt = none :=
  Option.not_isSome_iff_eq_none.1 (mt (readPart_isSome_iff t tb ix pt).1 h)

theorem readPart_eq_some {tb ix pt : Nat} (h : partExists tb ix pt) (t : Tables) : ∃ v, t.readPart tb ix pt = some v :=
  Option.isSome_iff_exists.1 ((readPart_isSome_iff t tb ix pt).2 h)

/-- Settles O14: the part of the active and of the shadow set, where the part exists. -/
theorem tableReads : Obligations.TableReads := by
  intro r s hmgt tb ix pt
  have hactive := exec_requestInstr_of_toMgt hmgt .readActive
  have hshadow := exec_requestInstr_of_toMgt hmgt .readShadow
  refine ⟨fun hnone => ⟨?_, ?_⟩, fun hpart => ?_⟩
  · have hread : s.active.readPart (tableOperand r) (indexOperand r) (partOperand r) = none := readPart_eq_none hnone _
    have htake : mgtReadActive r s = reply s .readActive r .badIndex [] := by rw [mgtReadActive, hread]
    exact hactive.trans (congrArg Host.Outcome.next htake)
  · have hread : s.mgt.shadow.readPart (tableOperand r) (indexOperand r) (partOperand r) = none := readPart_eq_none hnone _
    have htake : mgtReadShadow r s = reply s .readShadow r .badIndex [] := by rw [mgtReadShadow, hread]
    exact hshadow.trans (congrArg Host.Outcome.next htake)
  · obtain ⟨va, hva⟩ := readPart_eq_some hpart s.active
    obtain ⟨vs, hvs⟩ := readPart_eq_some hpart s.mgt.shadow
    have hreadActive : s.active.readPart (tableOperand r) (indexOperand r) (partOperand r) = some va := hva
    have hreadShadow : s.mgt.shadow.readPart (tableOperand r) (indexOperand r) (partOperand r) = some vs := hvs
    have htakeActive : mgtReadActive r s = reply s .readActive r .ok (bytesOf 4 va) := by rw [mgtReadActive, hreadActive]
    have htakeShadow : mgtReadShadow r s =
        reply s .readShadow r .ok (bytesOf 4 vs ++ [lowByte (flagNat (s.mgt.mark tb ix))]) := by
      rw [mgtReadShadow, hreadShadow]; rfl
    exact ⟨va, vs, hva, hvs, hactive.trans (congrArg Host.Outcome.next htakeActive),
      hshadow.trans (congrArg Host.Outcome.next htakeShadow)⟩

/-! What a written part reads. -/

/-- A bit of a part is the bit of the image at the part's place. -/
theorem getLsbD_partOf (img : Image20) (k i : Nat) : (partOf img k).getLsbD i = (decide (i < 32) && img.getLsbD (32 * k + i)) := by
  rw [partOf, BitVec.getLsbD_extractLsb']

/-- An image with part k replaced: within the part the new bits, elsewhere the old. -/
theorem getLsbD_withPart (img : Image20) (k : Nat) (v : Image4) {i : Nat} (hi : i < 160) :
    (withPart img k v).getLsbD i = if 32 * k ≤ i ∧ i < 32 * k + 32 then v.getLsbD (i - 32 * k) else img.getLsbD i := by
  rw [withPart, BitVec.getLsbD_or, BitVec.getLsbD_and, BitVec.getLsbD_not, BitVec.getLsbD_shiftLeft, BitVec.getLsbD_shiftLeft,
    BitVec.getLsbD_setWidth, BitVec.getLsbD_setWidth, BitVec.getLsbD_allOnes]
  by_cases hbelow : i < 32 * k
  · simp [hi, hbelow, Nat.not_le.2 hbelow]
  · by_cases hwithin : i < 32 * k + 32
    · have hoff : i - 32 * k < 32 := by omega
      have hoff' : i - 32 * k < 160 := by omega
      simp [hi, hbelow, hwithin, hoff, hoff', Nat.not_lt.1 hbelow]
    · have hoff : ¬i - 32 * k < 32 := by omega
      have hpast : v.getLsbD (i - 32 * k) = false := BitVec.getLsbD_of_ge v _ (Nat.not_lt.1 hoff)
      simp [hi, hbelow, hwithin, hoff, hpast]

/-- The part written reads as written; every other part reads as before. -/
theorem partOf_withPart (img : Image20) {k j : Nat} (v : Image4) (hj : j < 5) :
    partOf (withPart img k v) j = if j = k then v else partOf img j := by
  refine BitVec.eq_of_getLsbD_eq fun i hi => ?_
  rw [getLsbD_partOf, getLsbD_withPart img k v (by omega), decide_eq_true hi, Bool.true_and]
  by_cases hjk : j = k
  · subst hjk
    rw [if_pos ⟨by omega, by omega⟩, if_pos rfl]
    congr 1
    omega
  · rw [if_neg (by omega), if_neg hjk, getLsbD_partOf, decide_eq_true hi, Bool.true_and]

/-- Part pt of record ix of a table of 20-byte records. -/
def readImages {n : Nat} (v : Vector Image20 n) (ix pt : Nat) : Option Image4 :=
  if h : ix < n ∧ pt < 5 then some (partOf (v[ix]'h.1) pt) else none

/-- The one part of record ix of a table of 4-byte records. -/
def readWords {n : Nat} (v : Vector Image4 n) (ix pt : Nat) : Option Image4 :=
  if h : ix < n ∧ pt < 1 then some (v[ix]'h.1) else none

/-- A table of 20-byte records after a part was written. -/
theorem readImages_set {n : Nat} (v : Vector Image20 n) {ix pt : Nat} (h : ix < n ∧ pt < 5) (w : Image4) (ix' pt' : Nat) :
    readImages (v.set ix (withPart (v[ix]'h.1) pt w) h.1) ix' pt' =
      if ix' = ix ∧ pt' = pt then some w else readImages v ix' pt' := by
  unfold readImages
  by_cases h' : ix' < n ∧ pt' < 5
  · rw [dif_pos h', dif_pos h', Vector.getElem_set]
    by_cases hix : ix = ix'
    · subst hix
      rw [if_pos rfl, partOf_withPart _ w h'.2]
      by_cases hpt : pt' = pt
      · rw [if_pos hpt, if_pos ⟨rfl, hpt⟩]
      · rw [if_neg hpt, if_neg fun hboth => hpt hboth.2]
    · rw [if_neg hix, if_neg fun hboth => hix hboth.1.symm]
  · rw [dif_neg h', dif_neg h', if_neg]
    rintro ⟨rfl, rfl⟩
    exact h' h

/-- A table of 4-byte records after a part was written. -/
theorem readWords_set {n : Nat} (v : Vector Image4 n) {ix pt : Nat} (h : ix < n ∧ pt < 1) (w : Image4) (ix' pt' : Nat) :
    readWords (v.set ix w h.1) ix' pt' = if ix' = ix ∧ pt' = pt then some w else readWords v ix' pt' := by
  unfold readWords
  by_cases h' : ix' < n ∧ pt' < 1
  · have hpt : pt' = pt := by omega
    rw [dif_pos h', dif_pos h', Vector.getElem_set]
    by_cases hix : ix = ix'
    · rw [if_pos hix, if_pos ⟨hix.symm, hpt⟩]
    · rw [if_neg hix, if_neg fun hboth => hix hboth.1.symm]
  · rw [dif_neg h', dif_neg h', if_neg]
    rintro ⟨rfl, rfl⟩
    exact h' h

/-- A write of a part leaves the other tables as they are. -/
theorem readPart_writePart_other {t u : Tables} {tb ix pt : Nat} {v : Image4} (h : t.writePart tb ix pt v = some u)
    {tb' : Nat} (hne : tb' ≠ tb) (ix' pt' : Nat) : u.readPart tb' ix' pt' = t.readPart tb' ix' pt' := by
  unfold Tables.writePart at h
  split at h
  case h_9 => cases h
  all_goals
    split at h
    case isFalse => cases h
    case isTrue =>
      cases h
      unfold Tables.readPart
      split <;> first | rfl | exact absurd rfl hne

/-- A write of a part, read in its own table. -/
theorem readPart_writePart_same {t u : Tables} {tb ix pt : Nat} {v : Image4} (h : t.writePart tb ix pt v = some u)
    (ix' pt' : Nat) : u.readPart tb ix' pt' = if ix' = ix ∧ pt' = pt then some v else t.readPart tb ix' pt' := by
  unfold Tables.writePart at h
  split at h
  case h_9 => cases h
  all_goals
    split at h
    case isFalse => cases h
    case isTrue hexists =>
      cases h
      first | exact readImages_set _ hexists v ix' pt' | exact readWords_set _ hexists v ix' pt'

/-! WRITE_SHADOW and REVERT_SHADOW. -/

/-- A tag write of a code above VALID into a tagged record (R184). -/
theorem badTag_iff (r : Request) : badTag r = true ↔
    (r.b2.toNat / 16 ≤ 2 ∨ r.b2.toNat / 16 = 5 ∨ r.b2.toNat / 16 = 6) ∧ r.b2.toNat % 16 = 0 ∧ 1 < r.b4.toNat := by
  unfold badTag taggedTable tableOperand partOperand
  simp only [Bool.and_eq_true, Bool.or_eq_true, beq_iff_eq, and_assoc, or_assoc]
  exact and_congr (or_congr decide_eq_true_iff Iff.rfl) (and_congr decide_eq_true_iff decide_eq_true_iff)

/-- WRITE_SHADOW at MGT, by the part, the tag and the privilege. -/
theorem exec_writeShadow_of_judgement {r : Request} {s : State} (hmgt : ToMgt s r.port r.begun) {missing bad : Bool}
    (hpart : partExists (r.b2.toNat / 16) r.b3.toNat (r.b2.toNat % 16) ↔ missing = false) (htag : badTag r = bad) :
    exec (.writeShadow r) s = .next (judgedBy s .writeShadow r [judgeOperands .writeShadow missing bad, judgeService s]
      (reply (writeShadow r s ((s.mgt.shadow.writePart (tableOperand r) (indexOperand r) (partOperand r)
        (wordOperand r)).getD s.mgt.shadow)) .writeShadow r .ok [])) := by
  have hnone : (s.mgt.shadow.writePart (tableOperand r) (indexOperand r) (partOperand r) (wordOperand r)).isNone = missing := by
    have hsome := (writePart_isSome_iff s.mgt.shadow (wordOperand r) (tableOperand r) (indexOperand r) (partOperand r)).trans hpart
    cases hwritten : s.mgt.shadow.writePart (tableOperand r) (indexOperand r) (partOperand r) (wordOperand r) <;>
      cases missing <;> simp_all
  rw [← hnone, ← htag]
  exact exec_requestInstr_of_toMgt hmgt .writeShadow

/-- The refusals of WRITE_SHADOW. -/
theorem exec_writeShadow_of_refusal {r : Request} {s : State} (hmgt : ToMgt s r.port r.begun) {missing bad : Bool} {res : Result}
    (hpart : partExists (r.b2.toNat / 16) r.b3.toNat (r.b2.toNat % 16) ↔ missing = false) (htag : badTag r = bad)
    (hrefused : firstRefusal [judgeOperands .writeShadow missing bad, judgeService s] = some res) :
    exec (.writeShadow r) s = .next (reply s .writeShadow r res []) :=
  (exec_writeShadow_of_judgement hmgt hpart htag).trans (congrArg Host.Outcome.next (judgedBy_of_refusal hrefused ..))

/-- REVERT_SHADOW at MGT. -/
theorem exec_revertShadow {r : Request} {s : State} (hmgt : ToMgt s r.port r.begun) :
    exec (.revertShadow r) s = .next (mgtRevertShadow r s) :=
  exec_requestInstr_of_toMgt hmgt .revertShadow

/-- Settles O15: WRITE_SHADOW by its judgements in order, REVERT_SHADOW by the privilege, the parts by what they read. -/
theorem shadowChanges : Obligations.ShadowChanges := by
  refine ⟨fun r s hmgt => ?_, fun t tb ix pt v => ⟨writePart_isSome_iff t v tb ix pt, fun u hu => ⟨?_, ?_⟩⟩⟩
  · intro tb ix pt tagBad out
    have hmissing (h : ¬partExists tb ix pt) : partExists tb ix pt ↔ true = false := by simp [h]
    have hpresent (h : partExists tb ix pt) : partExists tb ix pt ↔ false = false := by simp [h]
    have hgood (h : ¬tagBad) : badTag r = false := Bool.eq_false_iff.2 (mt (badTag_iff r).1 h)
    have hbad (h : tagBad) : badTag r = true := (badTag_iff r).2 h
    refine ⟨fun hno htag => ?_, fun hpart htag => ?_, fun hno htag => ?_, fun hpart htag hservice => ?_,
      fun hpart htag hservice => ?_, fun hservice => ?_, fun hservice => ?_⟩
    · exact exec_writeShadow_of_refusal hmgt (hmissing hno) (hgood htag) rfl
    · exact exec_writeShadow_of_refusal hmgt (hpresent hpart) (hbad htag) rfl
    · obtain ⟨res, hres, hjudged⟩ := judgeOperands_of_both .writeShadow
      refine ⟨res, hres, exec_writeShadow_of_refusal hmgt (hmissing hno) (hbad htag) ?_⟩
      rw [hjudged]; rfl
    · refine exec_writeShadow_of_refusal hmgt (hpresent hpart) (hgood htag) ?_
      rw [judgeService_of_not hservice]; rfl
    · obtain ⟨t, ht⟩ := Option.isSome_iff_exists.1 ((writePart_isSome_iff s.mgt.shadow (wordOperand r) tb ix pt).2 hpart)
      have hwritten : s.mgt.shadow.writePart (tableOperand r) (indexOperand r) (partOperand r) (wordOperand r) = some t := ht
      have hnone : firstRefusal [judgeOperands .writeShadow false false, judgeService s] = none := by
        rw [judgeService_of_service hservice]; rfl
      have hexec := exec_writeShadow_of_judgement hmgt (hpresent hpart) (hgood htag)
      rw [judgedBy_of_none hnone, hwritten] at hexec
      exact ⟨t, ht, hexec⟩
    · have hnone : firstRefusal [judgeService s] = some .refusedPrivilege := by rw [judgeService_of_not hservice]; rfl
      exact (exec_revertShadow hmgt).trans (congrArg Host.Outcome.next (judgedBy_of_refusal hnone ..))
    · have hnone : firstRefusal [judgeService s] = none := by rw [judgeService_of_service hservice]; rfl
      exact (exec_revertShadow hmgt).trans (congrArg Host.Outcome.next (judgedBy_of_none hnone ..))
  · rw [readPart_writePart_same hu, if_pos ⟨rfl, rfl⟩]
  · intro tb' ix' pt' hne
    by_cases htb : tb' = tb
    · subst htb
      rw [readPart_writePart_same hu, if_neg]
      rintro ⟨rfl, rfl⟩
      exact hne rfl
    · exact readPart_writePart_other hu htb ix' pt'

end Sys2Proof.Proofs
end

section
/-! Requests about exceptions: READ_EVENT, CLEAR_EXCEPTIONS, READ_CAPTURE and CLEAR_CAPTURE (R173 to R176). -/

namespace Sys2Proof.Proofs

open Sys2Proof Sys2Proof.Machine Sys2Proof.Safety

/-! Requests at MGT. -/

/-- A request that the first failing judgement refuses is answered so, and has no effect (R180). -/
theorem exec_request_of_refusal {r : Request} {s : State} (hmgt : ToMgt s r.port r.begun) {code : ReqCode}
    {refusals : List (Option Result)} {k : State} (htake : mgtTake code r s = judgedBy s code r refusals k) {res : Result}
    (hrefused : firstRefusal refusals = some res) : exec (requestInstr code r) s = .next (reply s code r res []) := by
  rw [exec_requestInstr_of_toMgt hmgt, htake, judgedBy_of_refusal hrefused]

/-- A request that no judgement refuses is taken (R180). -/
theorem exec_request_of_accepted {r : Request} {s : State} (hmgt : ToMgt s r.port r.begun) {code : ReqCode}
    {refusals : List (Option Result)} {k : State} (htake : mgtTake code r s = judgedBy s code r refusals k)
    (haccepted : firstRefusal refusals = none) : exec (requestInstr code r) s = .next k := by
  rw [exec_requestInstr_of_toMgt hmgt, htake, judgedBy_of_none haccepted]

/-! Pending classes. -/

/-- No class is in the empty set. -/
theorem classesIn_zero : classesIn 0 = [] := by decide

/-- The highest-precedence class of a set is its lowest bit (R173). -/
theorem highestClass_of_lowest {set : BitVec 18} {n : Fin 18} (hset : set.getLsbD n.val = true)
    (hlow : ∀ m : Fin 18, m < n → set.getLsbD m.val = false) : highestClass set = n.val + 1 := by
  have hfind : (List.range 18).find? (fun i => set.getLsbD i) = some n.val := by
    rw [List.find?_range_eq_some]
    refine ⟨hset, List.mem_range.2 n.isLt, fun j hj => ?_⟩
    rw [hlow ⟨j, hj.trans n.isLt⟩ hj, Bool.not_false]
  rw [highestClass, classesIn, List.headD_eq_head?_getD, List.head?_map, List.head?_filter, hfind]
  rfl

/-- Without its highest-precedence class a set has lost its lowest bit (R173). -/
theorem dropHighest_of_lowest {set : BitVec 18} {n : Fin 18} (hset : set.getLsbD n.val = true)
    (hlow : ∀ m : Fin 18, m < n → set.getLsbD m.val = false) : dropHighest set = set &&& ~~~BitVec.twoPow 18 n.val := by
  rw [dropHighest, highestClass_of_lowest hset hlow, if_neg (Nat.succ_ne_zero _), Nat.add_sub_cancel]

/-- A set without one bit has the classes of its other bits. -/
theorem classesIn_length_without (set : BitVec 18) (n : Fin 18) :
    (classesIn (set &&& ~~~BitVec.twoPow 18 n.val)).length =
      (List.range 18).countP fun m => m != n.val && set.getLsbD m := by
  rw [classesIn, List.length_map, ← List.countP_eq_length_filter]
  refine List.countP_congr fun m hm => ?_
  have hbit : m < 18 := List.mem_range.1 hm
  simp [hbit, and_comm]

/-- READ_EVENT at MGT. -/
theorem exec_readEvent {r : Request} {s : State} (hmgt : ToMgt s r.port r.begun) :
    exec (.readEvent r) s = .next (mgtReadEvent r s) :=
  exec_requestInstr_of_toMgt hmgt .readEvent

/-! The capture record. -/

/-- The fields of a byte that a class number fills to bit 4 leave the class its low bits (R174). -/
theorem class_of_packByte {cls : Nat} (hcls : cls < 32) (x : Nat) : (BitVec.ofNat 8 (cls + x * 32)).toNat % 32 = cls := by
  rw [BitVec.toNat_ofNat]; omega

/-- The class of the capture record fits five bits. -/
theorem captureClass_lt (k : Option Capture) : captureClass k < 32 := by
  rcases k with _ | k
  · exact Nat.zero_lt_succ _
  · rw [captureClass]
    cases k.raise.cls <;> decide

/-- A class number alone in its byte. -/
theorem lowByte_captureClass (k : Option Capture) : (lowByte (captureClass k)).toNat % 32 = captureClass k := by
  have hlt := captureClass_lt k
  rw [lowByte, BitVec.toNat_ofNat]; omega

/-- Part 1's first byte, without a frame: the class and two free bits (R174, log 15). -/
theorem capturePart1_of_no_frame {s : State} (h : s.exc.capture.bind (·.raise.frame) = none) :
    (capturePart1 s).getD 0 0 =
      BitVec.ofNat 8 (captureClass s.exc.capture + ((freeByte s 4).toNat % 4 * 2) * 32) := by
  rw [capturePart1, h]
  show packByte _ = _
  rw [packByte_eq_sum]
  congr 1
  simp only [List.map_cons, List.map_nil, List.sum_cons, List.sum_nil]
  omega

/-- Part 1's first byte, with a frame (R174). -/
theorem capturePart1_of_frame {s : State} {f : Frame} (h : s.exc.capture.bind (·.raise.frame) = some f) :
    (capturePart1 s).getD 0 0 = BitVec.ofNat 8
      (captureClass s.exc.capture + (1 + flagNat (!f.ext) * 2 + f.data.length / 8 % 2 * 4) * 32) := by
  rw [capturePart1, h]
  show packByte _ = _
  rw [packByte_eq_sum]
  congr 1
  simp only [List.map_cons, List.map_nil, List.sum_cons, List.sum_nil]
  omega

/-- Every part of the capture record carries its class (R174). -/
theorem captureBytes_class {s : State} {part : Nat} {d : List Byte} (h : captureBytes s part = some d) :
    (d.getD 0 0).toNat % 32 = captureClass s.exc.capture := by
  have hlt := captureClass_lt s.exc.capture
  unfold captureBytes at h
  split at h
  case h_1 =>
    cases h
    cases hk : s.exc.capture with
    | none => rw [capturePart0, hk]; rfl
    | some k =>
      rw [capturePart0, hk]
      exact lowByte_captureClass (some k)
  case h_2 =>
    cases h
    cases hframe : s.exc.capture.bind (·.raise.frame) with
    | none => rw [capturePart1_of_no_frame hframe, class_of_packByte hlt]
    | some f => rw [capturePart1_of_frame hframe, class_of_packByte hlt]
  case h_6 => cases h
  all_goals
    cases h
    exact lowByte_captureClass s.exc.capture

/-- There are five parts (R174). -/
theorem captureBytes_eq_none {s : State} {part : Nat} (h : 4 < part) : captureBytes s part = none := by
  unfold captureBytes
  split
  case h_6 => rfl
  all_goals omega

theorem captureBytes_isSome (s : State) {part : Nat} (h : part ≤ 4) : ∃ data, captureBytes s part = some data := by
  obtain rfl | rfl | rfl | rfl | rfl : part = 0 ∨ part = 1 ∨ part = 2 ∨ part = 3 ∨ part = 4 := by omega
  all_goals exact ⟨_, rfl⟩

/-- Bit 5 of part 1 tells that there is a frame (R174). -/
theorem capturePart1_flag_of_no_frame {s : State} (h : s.exc.capture.bind (·.raise.frame) = none) :
    ((capturePart1 s).getD 0 0).getLsbD 5 = false := by
  have hlt := captureClass_lt s.exc.capture
  rw [capturePart1_of_no_frame h, BitVec.getLsbD_ofNat, Nat.testBit_eq_decide_div_mod_eq]
  simp only [Nat.reduceLT, decide_true, Bool.true_and, decide_eq_false_iff_not]
  omega

/-- The frame of a full capture record is its raise's (R174). -/
theorem capture_bind_frame {s : State} {k : Capture} (h : s.exc.capture = some k) :
    s.exc.capture.bind (·.raise.frame) = k.raise.frame := by
  rw [h]; rfl

/-- Settles O19: READ_EVENT by the lowest pending bit, the clears by the privilege, READ_CAPTURE part by part. -/
theorem exceptionRequests : Obligations.ExceptionRequests := by
  refine ⟨⟨rfl, rfl, fun _ _ _ => rfl⟩, fun r s hmgt => ⟨fun hnone => ?_, fun n hset hlow => ?_, fun hservice => ?_,
    fun hservice => ?_⟩, fun r s hmgt => ⟨fun hpart => ?_, fun hpart => ?_, fun hempty d hd => ?_, fun k hk => ?_⟩⟩
  · have hdrop : dropHighest s.exc.pend = s.exc.pend := by rw [hnone]; rfl
    have hread : readHighest s = s := by rw [readHighest, hdrop]; rfl
    have htake : mgtReadEvent r s = reply s .readEvent r .ok (0 :: 0 :: bytesOf 3 s.exc.flags) := by
      rw [mgtReadEvent, hread, highestClass, hnone, classesIn_zero]
      rfl
    rw [exec_readEvent hmgt, htake]
  · have hread : readHighest s = s.setExc { s.exc with pend := s.exc.pend &&& ~~~BitVec.twoPow 18 n.val } := by
      rw [readHighest, dropHighest_of_lowest hset hlow]
    rw [exec_readEvent hmgt, mgtReadEvent, hread, highestClass_of_lowest hset hlow, ← classesIn_length_without]
    rfl
  · have hrefused : firstRefusal [judgeService s] = some .refusedPrivilege := by rw [judgeService_of_not hservice]; rfl
    exact ⟨exec_request_of_refusal hmgt (code := .clearExceptions) rfl hrefused,
      exec_request_of_refusal hmgt (code := .clearCapture) rfl hrefused⟩
  · have haccepted : firstRefusal [judgeService s] = none := by rw [judgeService_of_service hservice]; rfl
    exact ⟨exec_request_of_accepted hmgt (code := .clearExceptions) rfl haccepted,
      exec_request_of_accepted hmgt (code := .clearCapture) rfl haccepted⟩
  · have htake : mgtReadCapture r s = reply s .readCapture r .badIndex [] := by
      rw [mgtReadCapture, captureBytes_eq_none hpart]
    exact (exec_requestInstr_of_toMgt hmgt .readCapture).trans (congrArg Host.Outcome.next htake)
  · obtain ⟨data, hdata⟩ := captureBytes_isSome s hpart
    have htake : mgtReadCapture r s = reply s.drawn .readCapture r .ok data := by rw [mgtReadCapture, hdata]
    exact ⟨data, hdata, (exec_requestInstr_of_toMgt hmgt .readCapture).trans (congrArg Host.Outcome.next htake)⟩
  · rw [captureBytes_class hd, hempty]
    rfl
  · have hbind := capture_bind_frame hk
    refine ⟨fun d hd => ?_, ?_, fun f hf => ⟨?_, ?_, ?_⟩, fun hnone d hd => ?_, ?_⟩
    · rw [captureBytes_class hd, hk]
      rfl
    · rw [captureBytes, capturePart0, hk]
    · have hext : flagNat (!f.ext) = if f.ext then 0 else 1 := by cases f.ext <;> rfl
      rw [captureBytes, capturePart1, hbind, hf, hk, ← hext]
      rfl
    · rw [captureBytes, captureData, hbind, hf, hk]
      rfl
    · rw [captureBytes, captureData, hbind, hf, hk]
      rfl
    · cases hd
      exact capturePart1_flag_of_no_frame (hbind.trans hnone)
    · rw [captureBytes, capturePart4, hk]
      simp only [Option.map_some, Option.bind_some]
      rfl

end Sys2Proof.Proofs
end

section
/-! DRIVE_COMMAND, VALVE_COMMAND, READ_RESET_CAUSE and RESET_PART (R108, R114, R115, R136, R138, R144, R195, R196). -/

namespace Sys2Proof.Proofs

open Sys2Proof Sys2Proof.Machine Sys2Proof.Safety

/-! DRIVE_COMMAND. -/

/-- A channel operand above 2 names no channel. -/
theorem channelOf_eq_none {n : Nat} (h : 2 < n) : channelOf n = none := by
  unfold channelOf
  split
  case h_4 => rfl
  all_goals omega

theorem channelOf_channelIndex (c : Channel) : channelOf (channelIndex c).val = some c := by
  cases c <;> rfl

/-- A channel operand up to 2 names a channel. -/
theorem channelOf_isSome {n : Nat} (h : n ≤ 2) : ∃ c, channelOf n = some c := by
  obtain rfl | rfl | rfl : n = 0 ∨ n = 1 ∨ n = 2 := by omega
  all_goals exact ⟨_, rfl⟩

/-- An action operand above 2 names no action. -/
theorem driveActionOf_eq_none {n : Nat} (h : 2 < n) : driveActionOf n = none := by
  unfold driveActionOf
  split
  case h_4 => rfl
  all_goals omega

/-- An action operand up to 2 names an action. -/
theorem driveActionOf_isSome {n : Nat} (h : n ≤ 2) : ∃ a, driveActionOf n = some a := by
  obtain rfl | rfl | rfl : n = 0 ∨ n = 1 ∨ n = 2 := by omega
  all_goals exact ⟨_, rfl⟩

/-- A DRIVE_COMMAND whose channel or action does not exist is refused by its operands (R115, R180). -/
theorem exec_driveCommand_of_operands {r : Request} {s : State} (hmgt : ToMgt s r.port r.begun) {res : Result}
    (h : judgeOperands .driveCommand (channelOf r.b2.toNat).isNone (driveActionOf r.b3.toNat).isNone = some res) :
    exec (.driveCommand r) s = .next (reply s .driveCommand r res []) := by
  have hrefused : firstRefusal [judgeOperands .driveCommand (channelOf r.b2.toNat).isNone (driveActionOf r.b3.toNat).isNone,
      if driveActionOf r.b3.toNat = some .clear then judgeService s else none] = some res := by rw [h]; rfl
  exact exec_request_of_refusal hmgt (code := .driveCommand) rfl hrefused

/-- A DRIVE_COMMAND with a channel and an action, by the privilege that a CLEAR needs (R115, R180). -/
theorem exec_driveCommand_of_action {r : Request} {s : State} (hmgt : ToMgt s r.port r.begun) {c : Channel} {a : DriveAction}
    (hc : channelOf r.b2.toNat = some c) (ha : driveActionOf r.b3.toNat = some a) :
    exec (.driveCommand r) s = .next (judgedBy s .driveCommand r [if a = .clear then judgeService s else none]
      (commandDrive r s c a)) := by
  have htake : mgtDriveCommand r s = judgedBy s .driveCommand r [if a = .clear then judgeService s else none]
      (commandDrive r s c a) := by
    rw [mgtDriveCommand, hc, ha]
    simp only [Option.some.injEq]
    rfl
  exact (exec_requestInstr_of_toMgt hmgt .driveCommand).trans (congrArg Host.Outcome.next htake)

/-- An action that no privilege bars is DRV's (R115). -/
theorem exec_driveCommand_of_allowed {r : Request} {s : State} (hmgt : ToMgt s r.port r.begun) {c : Channel} {a : DriveAction}
    (hc : channelOf r.b2.toNat = some c) (ha : driveActionOf r.b3.toNat = some a)
    (hallowed : a = .clear → s.service = true) : exec (.driveCommand r) s = .next (commandDrive r s c a) := by
  have haccepted : firstRefusal [if a = .clear then judgeService s else none] = none := by
    split
    case isTrue hclear => rw [judgeService_of_service (hallowed hclear)]; rfl
    case isFalse => rfl
  rw [exec_driveCommand_of_action hmgt hc ha, judgedBy_of_none haccepted]

/-- What the answer to a DRIVE_COMMAND carries, for any result of DRV but a refusal with reason BUSY, which DRV never gives
(R115). -/
theorem commandDrive_answers {r : Request} {s : State} {c : Channel} {a : DriveAction} {d : State × DriveResult}
    {out : Host.Outcome State Fault Refusal} (hout : out = .next (commandDrive r s c a)) (hact : driveAction s c a = d)
    (hbusy : d.2 ≠ .refused .busy) :
    ∃ reason : Byte, out = .next (reply d.1 .driveCommand r (driveResult d.2)
        [reason, lowByte (driveCode (d.1.chan c).state), lowByte (outcomeCode (d.1.chan c).outcome)]) ∧
      (d.2 = .refused .notPermitted → reason = 1) ∧ (d.2 = .refused .exclusive → reason = 2) ∧
      (d.2 = .refused .conflict → reason = 3) ∧ ((∀ w, d.2 ≠ .refused w) → reason = 0) ∧ d.2 ≠ .refused .busy := by
  refine ⟨refusedByte d.2, ?_, fun h => ?_, fun h => ?_, fun h => ?_, fun h => ?_, hbusy⟩
  · rw [hout, commandDrive, hact, outcomeByte_eq]
  · rw [h]; rfl
  · rw [h]; rfl
  · rw [h]; rfl
  · cases hres : d.2 with
    | ok | busy => rfl
    | refused w => exact absurd hres (h w)

/-- The checks of an engage request refuse for their own reasons only (R99). -/
theorem engageRefusal_ne_busy (s : State) (c : Channel) : engageRefusal s c ≠ some .busy := by
  unfold engageRefusal
  repeat' split
  all_goals simp

/-- DRV answers an engage request in RELEASING or FAULTED with BUSY, not with a refusal of that reason (R98). -/
theorem engage_ne_refused_busy (s : State) (c : Channel) (o : Origin) : (engage s c o).2 ≠ .refused .busy := by
  unfold engage
  split
  case h_1 =>
    split
    case h_1 why hwhy =>
      intro h
      rw [DriveResult.refused.injEq] at h
      exact engageRefusal_ne_busy s c (h ▸ hwhy)
    case h_2 => exact fun h => by cases h
  all_goals exact fun h => by cases h

/-- DRV refuses no disengage request (R108). -/
theorem disengage_ok (s : State) (c : Channel) : (disengage s c).2 = .ok := by
  unfold disengage
  split <;> rfl

/-- When a CLEAR passes (R114). -/
theorem clearPasses_iff (s : State) (c : Channel) : clearPasses s c = true ↔
    (s.active.drive c).confirm = none ∨ ∃ i, (s.active.drive c).confirm = some i ∧ (s.slot i).fresh = .fresh ∧
      (s.slot i).value.toNat ≠ (s.active.drive c).level := by
  unfold clearPasses
  split
  case h_1 hnone => simp [hnone]
  case h_2 i hsome => simp [hsome, readsDisengaged]

/-- A CLEAR in DISENGAGED (R114). -/
theorem clearDrive_of_disengaged {s : State} {c : Channel} (h : (s.chan c).state = .disengaged) : clearDrive s c = (s, .ok) := by
  simp only [clearDrive, h]

/-- A CLEAR in a state between DISENGAGED and FAULTED (R114). -/
theorem clearDrive_of_active {s : State} {c : Channel} (hdisengaged : (s.chan c).state ≠ .disengaged)
    (hfaulted : (s.chan c).state ≠ .faulted) : clearDrive s c = (s, .busy) := by
  cases h : (s.chan c).state with
  | disengaged => exact absurd h hdisengaged
  | faulted => exact absurd h hfaulted
  | shifting | verifying | engaged | releasing => simp only [clearDrive, h]

/-- A CLEAR in FAULTED (R114). -/
theorem clearDrive_of_faulted {s : State} {c : Channel} (h : (s.chan c).state = .faulted) :
    clearDrive s c = if clearPasses s c then (enterDisengaged s c, .ok) else (s, .busy) := by
  simp only [clearDrive, h]

/-- Settles O20: the operands, then the action as DRV takes it. -/
theorem driveCommandActs : Obligations.DriveCommandActs := by
  intro r s hmgt out act
  refine ⟨fun hc ha => ?_, fun hc ha => ?_, fun hc ha => ?_, fun c hc => ?_⟩
  · obtain ⟨a, haction⟩ := driveActionOf_isSome ha
    exact exec_driveCommand_of_operands hmgt (by rw [channelOf_eq_none hc, haction]; rfl)
  · obtain ⟨c, hchannel⟩ := channelOf_isSome hc
    exact exec_driveCommand_of_operands hmgt (by rw [hchannel, driveActionOf_eq_none ha]; rfl)
  · obtain ⟨res, hres, hjudged⟩ := judgeOperands_of_both .driveCommand
    exact ⟨res, hres, exec_driveCommand_of_operands hmgt
      (by rw [channelOf_eq_none hc, driveActionOf_eq_none ha]; exact hjudged)⟩
  · have hchannel : channelOf r.b2.toNat = some c := by rw [hc, channelOf_channelIndex]
    refine ⟨fun ha => ?_, fun ha => ?_, fun ha hservice => ?_, fun ha hservice => ?_⟩
    · have haction : driveActionOf r.b3.toNat = some .engage := by rw [ha]; rfl
      exact commandDrive_answers (exec_driveCommand_of_allowed hmgt hchannel haction nofun) rfl
        (engage_ne_refused_busy s c .management)
    · have haction : driveActionOf r.b3.toNat = some .disengage := by rw [ha]; rfl
      exact commandDrive_answers (exec_driveCommand_of_allowed hmgt hchannel haction nofun) rfl
        (by rw [disengage_ok]; exact nofun)
    · have haction : driveActionOf r.b3.toNat = some .clear := by rw [ha]; rfl
      have hrefused : firstRefusal [if DriveAction.clear = .clear then judgeService s else none] = some .refusedPrivilege := by
        rw [if_pos rfl, judgeService_of_not hservice]; rfl
      exact (exec_driveCommand_of_action hmgt hchannel haction).trans
        (congrArg Host.Outcome.next (judgedBy_of_refusal hrefused ..))
    · have haction : driveActionOf r.b3.toNat = some .clear := by rw [ha]; rfl
      have hout := exec_driveCommand_of_allowed hmgt hchannel haction fun _ => hservice
      refine ⟨fun hstate => ?_, fun hdisengaged hfaulted => ?_, fun hfaulted hfree => ?_, fun hfaulted hfree => ?_⟩
      · exact commandDrive_answers hout (clearDrive_of_disengaged hstate) nofun
      · exact commandDrive_answers hout (clearDrive_of_active hdisengaged hfaulted) nofun
      · have hclear : clearDrive s c = (s, .busy) := by
          rw [clearDrive_of_faulted hfaulted, if_neg (mt (clearPasses_iff s c).1 hfree)]
        exact commandDrive_answers hout hclear nofun
      · have hclear : clearDrive s c = (enterDisengaged s c, .ok) := by
          rw [clearDrive_of_faulted hfaulted, if_pos ((clearPasses_iff s c).2 hfree)]
        exact commandDrive_answers hout hclear nofun

/-! VALVE_COMMAND. -/

/-- A VALVE_COMMAND whose valve or action does not exist is refused by its operands (R144, R180). -/
theorem exec_valveCommand_of_operands {r : Request} {s : State} (hmgt : ToMgt s r.port r.begun) {res : Result}
    (h : judgeOperands .valveCommand (decide (1 < r.b2.toNat)) (decide (1 < r.b3.toNat)) = some res) :
    exec (.valveCommand r) s = .next (reply s .valveCommand r res []) := by
  have hrefused : firstRefusal [judgeOperands .valveCommand (decide (1 < r.b2.toNat)) (decide (1 < r.b3.toNat))] = some res := by
    rw [h]; rfl
  exact exec_request_of_refusal hmgt (code := .valveCommand) rfl hrefused

/-- A VALVE_COMMAND with a valve and an action is TNK's (R144). -/
theorem exec_valveCommand_of_action {r : Request} {s : State} (hmgt : ToMgt s r.port r.begun) {valve action : Byte}
    (hvalve : r.b2 = valve) (haction : r.b3 = action) {a : ValveAction} (ha : valveActionOf valve.toNat action.toNat = some a)
    (hexists : judgeOperands .valveCommand (decide (1 < valve.toNat)) (decide (1 < action.toNat)) = none) :
    exec (.valveCommand r) s = .next (commandValve r s a) := by
  have htake : mgtValveCommand r s = commandValve r s a := by
    rw [mgtValveCommand, hvalve, haction, ha, hexists, judgedBy_of_none rfl]
  exact (exec_requestInstr_of_toMgt hmgt .valveCommand).trans (congrArg Host.Outcome.next htake)

/-- A flag as a number. -/
theorem flagNat_eq_ite (b : Bool) : flagNat b = if b then 1 else 0 := by
  cases b <;> rfl

/-- What the answer to a VALVE_COMMAND carries (R144). -/
theorem commandValve_eq {s : State} {a : ValveAction} {n : TnkRec} {refused : Bool} (h : valveRequest s.tnk a = (n, refused))
    (r : Request) :
    commandValve r s a = reply (tnkTake s n refused) .valveCommand r (if refused then .refused else .ok)
      [if refused then 4 else 0,
        packByte [(if (tnkTake s n refused).tnk.tankOpen then 1 else 0, 0), (if (tnkTake s n refused).tnk.override then 1 else 0, 1),
          (if (tnkTake s n refused).outs.tank then 1 else 0, 2), (if (tnkTake s n refused).tnk.fillOpen then 1 else 0, 3)]] := by
  rw [commandValve, valveTake, h, valveByte]
  simp only [flagNat_eq_ite]
  cases refused <;> rfl

/-- When the fill valve may be opened (R138, R139). -/
theorem fillAllowed_iff (n : TnkRec) : fillAllowed n = true ↔
    n.supply = .hydrant ∧ (n.water.band = .empty ∨ n.water.band = .low ∨ n.water.band = .normal) ∧ n.water.source = .sender := by
  simp [fillAllowed, and_assoc, or_assoc]

/-- Settles O21: the operands, then one taking in TNK. -/
theorem valveCommandActs : Obligations.ValveCommandActs := by
  intro r s hmgt out act
  refine ⟨fun hv ha => ?_, fun hv ha => ?_, fun hv ha => ?_, fun hv ha => ?_, fun hv ha => ?_, ⟨fun hv ha hmay => ?_,
    fun hv ha hmay => ?_⟩, fun hv ha => ?_⟩
  · exact exec_valveCommand_of_operands hmgt (by rw [decide_eq_true hv, decide_eq_false (Nat.not_lt.2 ha)]; rfl)
  · exact exec_valveCommand_of_operands hmgt (by rw [decide_eq_false (Nat.not_lt.2 hv), decide_eq_true ha]; rfl)
  · obtain ⟨res, hres, hjudged⟩ := judgeOperands_of_both .valveCommand
    exact ⟨res, hres, exec_valveCommand_of_operands hmgt (by rw [decide_eq_true hv, decide_eq_true ha]; exact hjudged)⟩
  · exact (exec_valveCommand_of_action hmgt hv ha (a := .tankOpen) rfl rfl).trans
      (congrArg Host.Outcome.next (commandValve_eq rfl r))
  · exact (exec_valveCommand_of_action hmgt hv ha (a := .tankClose) rfl rfl).trans
      (congrArg Host.Outcome.next (commandValve_eq rfl r))
  · have hopen : valveRequest s.tnk .fillOpen = ({ s.tnk with fillOpen := true }, false) := if_pos ((fillAllowed_iff s.tnk).2 hmay)
    exact (exec_valveCommand_of_action hmgt hv ha (a := .fillOpen) rfl rfl).trans
      (congrArg Host.Outcome.next (commandValve_eq hopen r))
  · have hopen : valveRequest s.tnk .fillOpen = (s.tnk, true) := if_neg (mt (fillAllowed_iff s.tnk).1 hmay)
    exact (exec_valveCommand_of_action hmgt hv ha (a := .fillOpen) rfl rfl).trans
      (congrArg Host.Outcome.next (commandValve_eq hopen r))
  · exact (exec_valveCommand_of_action hmgt hv ha (a := .fillClose) rfl rfl).trans
      (congrArg Host.Outcome.next (commandValve_eq rfl r))

/-! READ_RESET_CAUSE and RESET_PART. -/

/-- READ_RESET_CAUSE at MGT, by the member read out and those that remain (R195). -/
theorem exec_readResetCause {r : Request} {s : State} (hmgt : ToMgt s r.port r.begun) {n : Nat} {d : ResetCauses}
    (htop : topCause s.sys.causes = n) (hdrop : dropCause s.sys.causes = d) :
    exec (.readResetCause r) s = .next (reply (s.setSys { s.sys with causes := d }) .readResetCause r .ok
      [lowByte n, causeByte d]) := by
  have htake : mgtReadResetCause r s = reply (s.setSys { s.sys with causes := d }) .readResetCause r .ok
      [lowByte n, causeByte d] := by rw [mgtReadResetCause, htop, hdrop]
  exact (exec_requestInstr_of_toMgt hmgt .readResetCause).trans (congrArg Host.Outcome.next htake)

/-- PARKED, or the fallback state set (R196, R199). -/
theorem parkedOrFallback_iff (s : State) : parkedOrFallback s = true ↔ s.sys.fallback = true ∨ s.ilk.mode = .parked := by
  simp [parkedOrFallback]

theorem parkedOrFallback_eq_false {s : State} (hfallback : s.sys.fallback = false) (hmode : s.ilk.mode ≠ .parked) :
    parkedOrFallback s = false := by
  simp [parkedOrFallback, hfallback, hmode]

/-- Settles O22: the cause set by its ranks, RESET_PART by its judgements. -/
theorem resetRequests : Obligations.ResetRequests := by
  intro r s hmgt c readOut
  refine ⟨fun hpower => ?_, fun hpower hline => ?_, fun hpower hline hmanagement => ?_,
    fun hpower hline hmanagement hfallback => ?_, fun hempty => ?_, fun hservice => ?_, fun hservice hfallback hmode => ?_,
    fun hservice hallowed => ?_⟩
  · exact exec_readResetCause hmgt (if_pos hpower) (if_pos hpower)
  · have hno : ¬s.sys.causes.powerOn = true := Bool.eq_false_iff.1 hpower
    exact exec_readResetCause hmgt ((if_neg hno).trans (if_pos hline)) ((if_neg hno).trans (if_pos hline))
  · have hnoPower : ¬s.sys.causes.powerOn = true := Bool.eq_false_iff.1 hpower
    have hnoLine : ¬s.sys.causes.resetLine = true := Bool.eq_false_iff.1 hline
    exact exec_readResetCause hmgt ((if_neg hnoPower).trans ((if_neg hnoLine).trans (if_pos hmanagement)))
      ((if_neg hnoPower).trans ((if_neg hnoLine).trans (if_pos hmanagement)))
  · have hnoPower : ¬s.sys.causes.powerOn = true := Bool.eq_false_iff.1 hpower
    have hnoLine : ¬s.sys.causes.resetLine = true := Bool.eq_false_iff.1 hline
    have hnoManagement : ¬s.sys.causes.management = true := Bool.eq_false_iff.1 hmanagement
    exact exec_readResetCause hmgt
      ((if_neg hnoPower).trans ((if_neg hnoLine).trans ((if_neg hnoManagement).trans (if_pos hfallback))))
      ((if_neg hnoPower).trans ((if_neg hnoLine).trans (if_neg hnoManagement)))
  · have hcauses : s.sys.causes = { } := hempty
    exact exec_readResetCause hmgt (n := 0) (by rw [hcauses]; rfl) (d := c) (by rw [hempty, hcauses]; rfl)
  · have hrefused : firstRefusal [judgeService s, failsWith (!parkedOrFallback s) .refusedMode] = some .refusedPrivilege := by
      rw [judgeService_of_not hservice]; rfl
    exact exec_request_of_refusal hmgt (code := .resetPart) rfl hrefused
  · have hrefused : firstRefusal [judgeService s, failsWith (!parkedOrFallback s) .refusedMode] = some .refusedMode := by
      rw [judgeService_of_service hservice, parkedOrFallback_eq_false hfallback hmode]; rfl
    exact exec_request_of_refusal hmgt (code := .resetPart) rfl hrefused
  · have haccepted : firstRefusal [judgeService s, failsWith (!parkedOrFallback s) .refusedMode] = none := by
      rw [judgeService_of_service hservice, (parkedOrFallback_iff s).2 hallowed]; rfl
    exact exec_request_of_accepted hmgt (code := .resetPart) rfl haccepted

end Sys2Proof.Proofs
end

section
/-! SAVE, its completion, and the image it leaves (R199 to R201). -/

namespace Sys2Proof.Proofs

open Sys2Proof Sys2Proof.Machine Sys2Proof.Safety

/-! The request and its end. -/

/-- With no SAVE in flight, none is in the way (R180). -/
theorem judgeSave_of_idle {s : State} (h : s.mgt.save = none) : judgeSave s = none := by
  rw [judgeSave, h]; rfl

/-- A SAVE in flight answers BUSY (R180). -/
theorem judgeSave_of_busy {s : State} (h : s.mgt.save ≠ none) : judgeSave s = some .busy := by
  rw [judgeSave, Option.isSome_iff_ne_none.2 h]; rfl

/-- The end of the SAVE in flight (R199, R200). -/
theorem exec_saveCompletion {s : State} {r : SaveRec} (hrun : Running s) (hsave : s.mgt.save = some r)
    (writesDone checkHolds : Bool) :
    exec (.saveCompletion writesDone checkHolds) s =
      .next (if writesDone && checkHolds then saveGood s r else saveBad s r) := by
  have hend : saveEnd s writesDone checkHolds = if writesDone && checkHolds then saveGood s r else saveBad s r := by
    rw [saveEnd, hsave]
  exact congrArg Host.Outcome.next ((inRun_of_running hrun _).trans hend)

/-! The image. -/

/-- The relation code 4 is INSIDE, and no other (R203). -/
theorem relOf_inside_iff (b : Nat) : relOf b = some .inside ↔ b = 4 := by
  unfold relOf
  split <;> simp_all

/-- The combiner of a term is read as before from its stored image. -/
theorem ittAny_stored (img : Image20) : ittAny (img &&& ittLayout img) = ittAny img := by
  have hhead : (0x07FF : Image20).getLsbD 8 = true := by decide
  rw [ittAny, ittAny, BitVec.getLsbD_and, ittLayout, BitVec.getLsbD_or, hhead, Bool.true_or, Bool.and_true]

/-- No condition has no bits. -/
theorem condsLayout_zero (img : Image20) (pos : Nat) : condsLayout img 0 pos = 0 := by
  rw [condsLayout]

/-- A condition's bits come before those of the conditions behind it; a head byte of no kind ends the list (R201, R203). -/
theorem condsLayout_succ (img : Image20) (n pos : Nat) :
    let kept := fun (bits : Image20) (size : Nat) => (bits <<< (8 * pos)) ||| condsLayout img n (pos + size)
    condsLayout img (n + 1) pos = match byteOf img pos % 8 with
      | 0 => if byteOf img (pos + 1) = 4 then kept 0xFFFFFFFFFFFFFFFF 8 else kept 0xFFFFFFFFFFFF 6
      | 1 | 5 => kept 0xFF 1
      | 2 => kept 0x3F1F 2
      | 3 => kept 0x1F1F 2
      | 4 => kept 0x0F 1
      | _ => (0x07 : Image20) <<< (8 * pos) := by
  intro kept
  rw [condsLayout, condLayout, condSize]
  rcases byteOf img pos % 8 with _ | _ | _ | _ | _ | _ | k
  · simp only [relOf_inside_iff]
    by_cases hinside : byteOf img (pos + 1) = 4
    · rw [if_pos hinside, if_pos hinside, if_pos hinside]
    · rw [if_neg hinside, if_neg hinside, if_neg hinside]
  · rfl
  · rfl
  · rfl
  · rfl
  · rfl
  · exact BitVec.or_zero

/-- Settles O18: SAVE by its judgements, its completion by the two outcomes of the writes, the image field by field. -/
theorem saveAndItsCompletion : Obligations.SaveAndItsCompletion := by
  refine ⟨fun r s hmgt => ?_, fun s r writesDone checkHolds hrun hsave => ?_, fun t => ?_⟩
  · refine ⟨fun hservice => ?_, fun hservice hbusy => ?_, fun hservice hidle hfallback hmode => ?_,
      fun hservice hidle hallowed => ?_⟩
    · refine exec_request_of_refusal hmgt (code := .save) rfl (?_ : firstRefusal _ = some .refusedPrivilege)
      rw [judgeService_of_not hservice]; rfl
    · refine exec_request_of_refusal hmgt (code := .save) rfl (?_ : firstRefusal _ = some .busy)
      rw [judgeService_of_service hservice, judgeSave_of_busy hbusy]; rfl
    · refine exec_request_of_refusal hmgt (code := .save) rfl (?_ : firstRefusal _ = some .refusedMode)
      rw [judgeService_of_service hservice, judgeSave_of_idle hidle, parkedOrFallback_eq_false hfallback hmode]; rfl
    · refine exec_request_of_accepted hmgt (code := .save) rfl (?_ : firstRefusal _ = none)
      rw [judgeService_of_service hservice, judgeSave_of_idle hidle, (parkedOrFallback_iff s).2 hallowed]; rfl
  · intro idle
    refine (exec_saveCompletion hrun hsave writesDone checkHolds).trans (congrArg Host.Outcome.next ?_)
    exact if_congr (Bool.and_eq_true_iff) rfl rfl
  · intro u
    refine ⟨fun hmask => ?_, frt_stored t, rtt_stored t, drives_stored t, tanks_stored t, roles_stored t, slots_stored t,
      fun i => ?_, fun i => ⟨itt_stored t i, ?_, ?_, ?_⟩, fun img n pos => ⟨condsLayout_zero img pos, condsLayout_succ img n pos⟩⟩
    · rw [StoredImage.ofTables, good_holding, sound_stored t hmask]
    · exact params_stored t i
    · exact (congrArg tagOf (itt_stored t i)).trans (tagOf_masked _ _ (ittLayout_head _ 0 8 (by omega)))
    · exact (congrArg ittAny (itt_stored t i)).trans (ittAny_stored _)
    · exact (congrArg ittParse (itt_stored t i)).trans (ittParse_stored _)

end Sys2Proof.Proofs
end

section
/-! The checks of a COMMIT said record by record: which records fail, in which order they are listed, and the tags that a COMMIT
leaves (R33, R53, R55, R70, R94, R121, R187, R188, R190). -/

namespace Sys2Proof.Proofs

open Sys2Proof Sys2Proof.Machine Sys2Proof.Safety

/-! The list of judgements. -/

/-- The judgements are those of every record of every table, by table and then index (R187). -/
theorem judgements_keys (t : Tables) : t.judgements.map (fun x => (x.1, x.2.1)) =
    (List.range 8).flatMap fun tb => (List.range (tableShape tb).1).map fun ix => (tb, ix) := by
  simp only [Tables.judgements, List.map_append, List.map_map]
  rfl

/-- The key of a record comes before another's: by table, then by index (R190). -/
def KeyBefore (a b : Nat × Nat) : Prop := a.1 < b.1 ∨ (a.1 = b.1 ∧ a.2 < b.2)

theorem judgements_ordered (t : Tables) :
    t.judgements.Pairwise fun x y => KeyBefore (x.1, x.2.1) (y.1, y.2.1) := by
  have hkeys : (t.judgements.map fun x => (x.1, x.2.1)).Pairwise KeyBefore := by
    rw [judgements_keys, List.pairwise_flatMap]
    refine ⟨fun tb _ => ?_, List.pairwise_lt_range.imp fun {a b} hlt x hx y hy => ?_⟩
    · rw [List.pairwise_map]
      exact List.pairwise_lt_range.imp fun hlt => .inr ⟨rfl, hlt⟩
    · obtain ⟨_, -, rfl⟩ := List.mem_map.1 hx
      obtain ⟨_, -, rfl⟩ := List.mem_map.1 hy
      exact .inl hlt
  exact List.pairwise_map.1 hkeys

/-- One record has one judgement. -/
theorem judgements_unique {t : Tables} {tb ix : Nat} {ok ok' : Bool} (h : (tb, ix, ok) ∈ t.judgements)
    (h' : (tb, ix, ok') ∈ t.judgements) : ok = ok' := by
  have hnodup : (t.judgements.map fun x => (x.1, x.2.1)).Nodup := by
    refine List.pairwise_map.2 ((judgements_ordered t).imp fun {x y} hbefore heq => ?_)
    have hfst := congrArg Prod.fst heq
    have hsnd := congrArg Prod.snd heq
    rcases hbefore with hlt | ⟨-, hlt⟩ <;> simp_all
  have heq := List.inj_on_of_nodup_map hnodup h h' rfl
  simpa using heq

/-- The failing records are those whose judgement fails. -/
theorem mem_failing (t : Tables) (tb ix : Nat) : (tb, ix) ∈ t.failing ↔ (tb, ix, false) ∈ t.judgements := by
  rw [Tables.failing, List.mem_filterMap]
  refine ⟨?_, fun h => ⟨_, h, rfl⟩⟩
  rintro ⟨⟨tb', ix', ok⟩, hmem, heq⟩
  cases ok with
  | true => cases heq
  | false =>
    cases heq
    exact hmem

/-- A record fails exactly where its judgement fails. -/
theorem mem_failing_of_judged {t : Tables} {tb ix : Nat} {ok : Bool} (h : (tb, ix, ok) ∈ t.judgements) :
    (tb, ix) ∈ t.failing ↔ ok = false := by
  rw [mem_failing]
  exact ⟨fun hfails => judgements_unique h hfails, fun hfails => hfails ▸ h⟩

/-- The failing records are listed by table and then index (R190). -/
theorem failing_ordered (t : Tables) : t.failing.Pairwise KeyBefore := by
  rw [Tables.failing, List.pairwise_filterMap]
  refine (judgements_ordered t).imp ?_
  rintro ⟨tb, ix, ok⟩ ⟨tb', ix', ok'⟩ hbefore b hb b' hb'
  cases ok with
  | true => cases hb
  | false =>
    cases ok' with
    | true => cases hb'
    | false =>
      cases hb
      cases hb'
      exact hbefore

/-- Only records that exist fail. -/
theorem failing_index_lt {t : Tables} {tb ix : Nat} (h : (tb, ix) ∈ t.failing) : ix < (tableShape tb).1 := by
  have hkey : (tb, ix) ∈ t.judgements.map fun x => (x.1, x.2.1) := List.mem_map_of_mem ((mem_failing t tb ix).1 h)
  rw [judgements_keys, List.mem_flatMap] at hkey
  obtain ⟨tb', -, hmem⟩ := hkey
  obtain ⟨ix', hix, heq⟩ := List.mem_map.1 hmem
  cases heq
  exact List.mem_range.1 hix

/-! One judgement for each record of tables 3 to 7. -/

section
variable (t : Tables)

theorem role_judged (i : Fin 11) : (3, i.val, roleOk (t.roles.get i)) ∈ t.judgements := by
  have h := List.mem_map_of_mem (f := fun i : Fin 11 => ((3 : Nat), i.val, roleOk (t.roles.get i))) (List.mem_finRange i)
  simp only [Tables.judgements, List.mem_append]
  exact .inl (.inl (.inl (.inl (.inr h))))

theorem slot_judged (i : Fin 32) : (4, i.val, slotOk i.val (t.slots.get i)) ∈ t.judgements := by
  have h := List.mem_map_of_mem (f := fun i : Fin 32 => ((4 : Nat), i.val, slotOk i.val (t.slots.get i))) (List.mem_finRange i)
  simp only [Tables.judgements, List.mem_append]
  exact .inl (.inl (.inl (.inr h)))

theorem drive_judged (c : Fin 3) : (5, c.val, driveOk t (ittPasses t 24) (t.drives.get c)) ∈ t.judgements := by
  have h := List.mem_map_of_mem (f := fun i : Fin 3 => ((5 : Nat), i.val, driveOk t (ittPasses t 24) (t.drives.get i)))
    (List.mem_finRange c)
  simp only [Tables.judgements, List.mem_append]
  exact .inl (.inl (.inr h))

theorem tank_judged (k : Tank) : (6, (tankIndex k).val, tankOk t k) ∈ t.judgements := by
  have hk : k ∈ Tank.all := by cases k <;> decide
  have h := List.mem_map_of_mem (f := fun k : Tank => ((6 : Nat), (tankIndex k).val, tankOk t k)) hk
  simp only [Tables.judgements, List.mem_append]
  exact .inl (.inr h)

theorem param_judged (i : Fin 24) : (7, i.val, paramOk t i) ∈ t.judgements := by
  have h := List.mem_map_of_mem (f := fun i : Fin 24 => ((7 : Nat), i.val, paramOk t i)) (List.mem_finRange i)
  simp only [Tables.judgements, List.mem_append]
  exact .inr h

end

/-! Tags. -/

/-- A record that a commit judges by its fields: VALID, or REJECTED by an earlier one (R187). -/
def Live (img : Image20) : Prop := tagOf img = .valid ∨ tagOf img = .rejected

theorem inUse_iff_live (img : Image20) : inUse img = true ↔ Live img := by
  rw [inUse, Bool.or_eq_true, beq_iff_eq, beq_iff_eq, Live]

/-- A tagged record fails by an undefined tag, or by its fields where it is judged by them (R187, log 31). -/
theorem judged_eq_false_iff {img : Image20} {ok : Bool} {P : Prop} (h : ok = true ↔ P) :
    judged img ok = false ↔ tagOf img = .undefined ∨ (Live img ∧ ¬P) := by
  rw [← h, judged, Live]
  cases tagOf img <;> simp

/-! Terms. -/

/-- The judgement of a term is that of its record (R70). -/
theorem ittPasses_term (t : Tables) (i : Fin 24) :
    (ittPasses t 24).getD i.val false = ittOk (t.itt.get i) i.val
      (fun j => (ittPasses t i.val).getD j false && (if h : j < 24 then inUse t.itt[j] else false)) :=
  ittPasses_getD t i 24 i.isLt (Nat.le_refl 24)

/-- A term's judgement does not depend on the terms behind it (R70). -/
theorem ittPasses_prefix (t : Tables) {i j : Fin 24} (h : j < i) :
    (ittPasses t i.val).getD j.val false = (ittPasses t 24).getD j.val false := by
  rw [ittPasses_term, ittPasses_getD t j i.val h i.isLt.le]

/-- A term may be named where it is in use and does not fail (R187). -/
theorem termNamed_iff (t : Tables) (j : Fin 24) :
    termNamed t (ittPasses t 24) j = true ↔ Live (t.itt.get j) ∧ ¬(2, j.val) ∈ t.failing := by
  rw [mem_failing_of_judged (itt_judged t j), termNamed, Bool.and_eq_true, inUse_iff_live, Bool.not_eq_false, and_comm]

/-- What a term is judged by: each condition of its list (R70). -/
theorem condOk_iff (t : Tables) (i : Fin 24) (c : Cond) :
    condOk i.val (fun j => (ittPasses t i.val).getD j false && (if h : j < 24 then inUse t.itt[j] else false)) c = true ↔
      match c with
      | .signal _ rel lo _ hi => rel = .inside → lo.toNat ≤ hi.toNat
      | .mode set => set ≠ 0
      | .drive _ set => set ≠ 0
      | .band _ set => set ≠ 0
      | .supply _ => True
      | .term j => j < i ∧ Live (t.itt.get j) ∧ ¬(2, j.val) ∈ t.failing := by
  cases c with
  | signal slot rel lo stale hi => cases rel <;> simp [condOk]
  | mode set => simp [condOk]
  | drive c set => simp [condOk]
  | band k set => simp [condOk]
  | supply v => simp [condOk]
  | term j =>
    have hget : inUse t.itt[j.val] = inUse (t.itt.get j) := rfl
    simp only [condOk, j.isLt, dif_pos, Bool.and_eq_true, decide_eq_true_eq]
    refine and_congr_right fun hlt => ?_
    rw [ittPasses_prefix t hlt, hget, ← Bool.and_eq_true, ← termNamed_iff]
    rfl

/-- R70 for a term's condition list. -/
theorem ittFields_iff (t : Tables) (i : Fin 24) :
    (match ittParse (t.itt.get i) with
      | none => false
      | some cs => cs.all (condOk i.val fun j =>
          (ittPasses t i.val).getD j false && (if h : j < 24 then inUse t.itt[j] else false))) = true ↔
      ∃ cs, ittParse (t.itt.get i) = some cs ∧ ∀ c ∈ cs, match c with
        | .signal _ rel lo _ hi => rel = .inside → lo.toNat ≤ hi.toNat
        | .mode set => set ≠ 0
        | .drive _ set => set ≠ 0
        | .band _ set => set ≠ 0
        | .supply _ => True
        | .term j => j < i ∧ Live (t.itt.get j) ∧ ¬(2, j.val) ∈ t.failing := by
  cases ittParse (t.itt.get i) with
  | none => exact ⟨fun h => absurd h Bool.false_ne_true, fun ⟨cs, hcs, _⟩ => by cases hcs⟩
  | some cs =>
    refine List.all_eq_true.trans ⟨fun h => ⟨cs, rfl, fun c hc => (condOk_iff t i c).1 (h c hc)⟩, ?_⟩
    rintro ⟨cs', hcs, h⟩ c hc
    cases hcs
    exact (condOk_iff t i c).2 (h c hc)

/-! Templates. -/

theorem allDisjoint_iff : ∀ ps : List Patch, allDisjoint ps = true ↔
    ps.Pairwise fun x y => x.start + x.len ≤ y.start ∨ y.start + y.len ≤ x.start
  | [] => by simp [allDisjoint]
  | p :: ps => by
    rw [allDisjoint, List.pairwise_cons, Bool.and_eq_true, allDisjoint_iff ps]
    simp [disjoint]

/-- The templates in use with the reissue flag, counted (R33). -/
theorem reissueCount_eq (t : Tables) : reissueCount t =
    t.rtt.toList.countP fun x => (tagOf x == .valid || tagOf x == .rejected) && rttReissue x :=
  (List.countP_eq_length_filter ..).symm

/-- A named template must be in use and not fail (R33, R187). -/
theorem templateNamed_iff (t : Tables) (o : Option (Fin 16)) :
    templateNamed t o = true ↔ ∀ k, o = some k → Live (t.rtt.get k) ∧ ¬(1, k.val) ∈ t.failing := by
  cases o with
  | none => simp [templateNamed]
  | some k => simp [templateNamed, inUse_iff_live, mem_failing_of_judged (rtt_judged t k)]

/-- R33 for a template's fields. -/
theorem rttFields_iff (t : Tables) (img : Image20) :
    ((rttPatches img).all (fun p => p.start + p.len ≤ 64) && allDisjoint (rttPatches img) &&
      (match rttReplacement img with
        | none => true
        | some id => id.toNat != t.mgmtBase.toNat && id.toNat != t.mgmtBase.toNat + 1
            && id.toNat != t.mgmtBase.toNat + 2) &&
      (!rttReissue img || decide (reissueCount t ≤ 4))) = true ↔
    (∀ x ∈ rttPatches img, x.start + x.len ≤ 64) ∧
      (rttPatches img).Pairwise (fun x y => x.start + x.len ≤ y.start ∨ y.start + y.len ≤ x.start) ∧
      (∀ id, rttReplacement img = some id → id.toNat ≠ t.mgmtBase.toNat ∧ id.toNat ≠ t.mgmtBase.toNat + 1 ∧
        id.toNat ≠ t.mgmtBase.toNat + 2) ∧
      (rttReissue img = true → (t.rtt.toList.countP fun x =>
        (tagOf x == .valid || tagOf x == .rejected) && rttReissue x) ≤ 4) := by
  rw [← reissueCount_eq, ← allDisjoint_iff]
  cases rttReplacement img <;> cases rttReissue img <;> simp [and_assoc]

/-! Entries and drives. -/

/-- A term index that must name a term. -/
def NamesTerm (t : Tables) (o : Option (Fin 24)) : Prop := ∃ j, o = some j ∧ Live (t.itt.get j) ∧ ¬(2, j.val) ∈ t.failing

/-- The gate term check (R33, log 35). -/
theorem gateTermOk_iff (t : Tables) (img : Image20) :
    gateTermOk t (ittPasses t 24) img = true ↔
      (frtAction img = .gate ∨ frtAction img = .hold → NamesTerm t (frtTerm img)) := by
  unfold gateTermOk NamesTerm
  cases frtAction img <;> cases frtTerm img <;> simp [termNamed_iff]

theorem frtFields_iff (t : Tables) (img : Image20) :
    (field img 8 2 != 3 && decide (byteOf img 14 ≤ 2) && gateTermOk t (ittPasses t 24) img
      && templateNamed t (frtOpen img) && templateNamed t (frtClosed img)
      && (frtExtractions img).all extractionOk
      && (frtAction img != .hold || decide (1 ≤ byteOf img 3))) = true ↔
    field img 8 2 ≠ 3 ∧ byteOf img 14 ≤ 2 ∧
      (frtAction img = .gate ∨ frtAction img = .hold → NamesTerm t (frtTerm img)) ∧
      (∀ k, frtOpen img = some k ∨ frtClosed img = some k → Live (t.rtt.get k) ∧ ¬(1, k.val) ∈ t.failing) ∧
      (∀ x ∈ frtExtractions img, 10 ≤ x.slot.val ∧ x.start + x.len ≤ 64) ∧
      (frtAction img = .hold → 1 ≤ byteOf img 3) := by
  have htemplates : (∀ k, frtOpen img = some k ∨ frtClosed img = some k → Live (t.rtt.get k) ∧ ¬(1, k.val) ∈ t.failing) ↔
      templateNamed t (frtOpen img) = true ∧ templateNamed t (frtClosed img) = true := by
    rw [templateNamed_iff, templateNamed_iff]
    exact ⟨fun h => ⟨fun k hk => h k (.inl hk), fun k hk => h k (.inr hk)⟩, fun h k hk => hk.elim (h.1 k) (h.2 k)⟩
  rw [← gateTermOk_iff, htemplates]
  cases frtAction img <;> simp [extractionOk, and_assoc]

/-- R94 for a drive record's fields. -/
theorem driveFields_iff (t : Tables) (img : Image20) :
    ((!img.getLsbD 15 || (match optTerm img 8 with
        | none => false
        | some j => termNamed t (ittPasses t 24) j))
      && (!img.getLsbD 17 || decide (field img 19 3 ≤ 5))
      && (img.getLsbD 39 == img.getLsbD 47)
      && decide (field img 64 16 ≤ field img 80 16)
      && decide (50 ≤ field img 96 16) && decide (field img 96 16 ≤ 5000)
      && decide (100 ≤ field img 112 16) && decide (field img 112 16 ≤ 10000)
      && decide (50 ≤ field img 128 16) && decide (field img 128 16 ≤ 5000)) = true ↔
    (img.getLsbD 15 = true → NamesTerm t (driveOfImage img).permit) ∧ (img.getLsbD 17 = true → field img 19 3 ≤ 5) ∧
      img.getLsbD 39 = img.getLsbD 47 ∧ (driveOfImage img).low ≤ (driveOfImage img).high ∧ 50 ≤ (driveOfImage img).settle ∧
      (driveOfImage img).settle ≤ 5000 ∧ 100 ≤ (driveOfImage img).verify ∧ (driveOfImage img).verify ≤ 10000 ∧
      50 ≤ (driveOfImage img).release ∧ (driveOfImage img).release ≤ 5000 := by
  have hpermit : (match optTerm img 8 with
      | none => false
      | some j => termNamed t (ittPasses t 24) j) = true ↔ NamesTerm t (driveOfImage img).permit := by
    unfold NamesTerm
    show _ ↔ ∃ j, optTerm img 8 = some j ∧ _
    cases optTerm img 8 <;> simp [termNamed_iff]
  rw [← hpermit]
  show _ ↔ _ ∧ _ ∧ _ ∧ field img 64 16 ≤ field img 80 16 ∧ 50 ≤ field img 96 16 ∧ field img 96 16 ≤ 5000 ∧
    100 ≤ field img 112 16 ∧ field img 112 16 ≤ 10000 ∧ 50 ≤ field img 128 16 ∧ field img 128 16 ≤ 5000
  cases img.getLsbD 15 <;> cases img.getLsbD 17 <;> simp [and_assoc]

/-! Tanks, roles, slots and parameters. -/

theorem tankFields_iff (t : Tables) (k : Tank) :
    (decide ((t.tank k).lowAt < (t.tank k).normalAt) && decide ((t.tank k).normalAt < (t.tank k).fullAt)
      && decide (1 ≤ (t.tank k).capacity)
      && (match (t.tank k).flow with
          | none => true
          | some pi => slotOk (pi.val + 6) (t.slots.get (pulseSlot pi)) && t.pulseMode pi == .count
              && t.boundTank pi == some k)) = true ↔
    (t.tank k).lowAt < (t.tank k).normalAt ∧ (t.tank k).normalAt < (t.tank k).fullAt ∧ 1 ≤ (t.tank k).capacity ∧
      ∀ pi, (t.tank k).flow = some pi →
        ¬(4, pi.val + 6) ∈ t.failing ∧ t.pulseMode pi = .count ∧ t.boundTank pi = some k := by
  cases (t.tank k).flow with
  | none => simp [and_assoc]
  | some pi =>
    have hslot : (4, pi.val + 6) ∈ t.failing ↔ slotOk (pi.val + 6) (t.slots.get (pulseSlot pi)) = false :=
      mem_failing_of_judged (slot_judged t (pulseSlot pi))
    simp [hslot, and_assoc]

theorem roleOk_eq_false_iff (img : Image4) : roleOk img = false ↔ ¬(byteOf img 0 < 32 ∨ byteOf img 0 = 255) := by
  rw [← Bool.not_eq_true, roleOk, Bool.or_eq_true, decide_eq_true_eq, beq_iff_eq]

theorem slotOk_eq_false_iff (i : Nat) (img : Image4) : slotOk i img = false ↔
    (i < 6 ∧ byteOf img 0 = 0) ∨ (6 ≤ i ∧ i < 10 ∧
      ¬(1 ≤ field img 0 16 ∧ 10 ≤ field img 16 10 ∧ field img 16 10 ≤ 1000 ∧ field img 26 2 ≠ 3)) := by
  unfold slotOk
  split
  case isTrue hswitch => simp [hswitch, Nat.not_le.2 hswitch]
  case isFalse hswitch =>
    split
    case isTrue hpulse =>
      rw [← Bool.not_eq_true]
      simp [hswitch, hpulse, Nat.not_lt.1 hswitch, and_assoc]
    case isFalse hpulse => simp [hswitch, hpulse]

theorem within_iff (lo hi v : Nat) : within lo hi v = true ↔ lo ≤ v ∧ v ≤ hi := by
  simp [within]

/-- R188 for parameter n. -/
theorem paramOk_eq_false_iff (t : Tables) (i : Fin 24) : paramOk t i = false ↔ ¬match i.val with
    | 0 | 1 => t.param i = 125 ∨ t.param i = 250 ∨ t.param i = 500
    | 2 => True
    | 3 | 4 => t.param i ≤ 2
    | 5 | 23 => t.param i ≤ 1
    | 6 => 10 ≤ t.param i ∧ t.param i ≤ 1000
    | 7 | 8 => 100 ≤ t.param i ∧ t.param i ≤ 2000
    | 13 => t.param i < t.param 12
    | 15 | 16 | 17 => t.param 14 ≤ t.param i ∧ t.param i ≤ 65535
    | 18 => 1 ≤ t.param i ∧ t.param i ≤ 65535
    | 19 => 20 ≤ t.param i ∧ t.param i ≤ 1000
    | 20 => 100 ≤ t.param i ∧ t.param i ≤ 2550
    | 21 => 5 ≤ t.param i ∧ t.param i ≤ 120
    | 22 => t.param i < 262144
    | _ => t.param i ≤ 65535 := by
  rw [← Bool.not_eq_true, not_iff_not, paramOk]
  fin_cases i <;> simp [within, or_assoc]

/-! The tags that a COMMIT leaves. -/

/-- Tag code 2 is REJECTED (R202). -/
theorem tagOf_withTag_two (img : Image20) : tagOf (withTag img 2) = .rejected := by
  unfold tagOf; rw [byteOf_zero_withTag]; rfl

/-- The tag of a judged record (R190). -/
theorem tagOf_retag (failed : List (Nat × Nat)) (tb ix : Nat) (img : Image20) :
    tagOf (retag failed tb ix img) =
      if (tb, ix) ∈ failed then .rejected else if tagOf img = .rejected then .valid else tagOf img := by
  unfold retag
  by_cases hfailed : (tb, ix) ∈ failed
  · rw [if_pos (List.contains_iff_mem.2 hfailed), if_pos hfailed, tagOf_withTag_two]
  · rw [if_neg (mt List.contains_iff_mem.1 hfailed), if_neg hfailed, passedTag]
    by_cases hrejected : tagOf img = .rejected
    · rw [if_pos (beq_iff_eq.2 hrejected), if_pos hrejected, tagOf_withTag_one]
    · rw [if_neg (mt beq_iff_eq.1 hrejected), if_neg hrejected]

/-- A judged record keeps every byte behind its tag (R190). -/
theorem byteOf_retag (failed : List (Nat × Nat)) (tb ix : Nat) (img : Image20) {b : Nat} (h : 1 ≤ b) :
    byteOf (retag failed tb ix img) b = byteOf img b := by
  unfold retag
  split
  · exact byteOf_withTag img 2 b h
  · exact byteOf_passedTag img b h

/-- A table of judged records, place by place. -/
theorem get_ofFn_retag {n : Nat} (failed : List (Nat × Nat)) (tb : Nat) (v : Vector Image20 n) (i : Fin n) :
    let after := (Vector.ofFn fun i => retag failed tb i.val (v.get i)).get i
    tagOf after = (if (tb, i.val) ∈ failed then .rejected
      else if tagOf (v.get i) = .rejected then .valid else tagOf (v.get i)) ∧
    ∀ b, 1 ≤ b → byteOf after b = byteOf (v.get i) b := by
  intro after
  have hafter : after = retag failed tb i.val (v.get i) := ofFn_get _ i
  rw [hafter]
  exact ⟨tagOf_retag failed tb i.val (v.get i), fun b hb => byteOf_retag failed tb i.val (v.get i) hb⟩

/-- A COMMIT leaves the tables without tags (R190). -/
theorem retagged_roles (t : Tables) (failed : List (Nat × Nat)) : (t.retagged failed).roles = t.roles := by
  simp only [Tables.retagged]

theorem retagged_slots (t : Tables) (failed : List (Nat × Nat)) : (t.retagged failed).slots = t.slots := by
  simp only [Tables.retagged]

theorem retagged_params (t : Tables) (failed : List (Nat × Nat)) : (t.retagged failed).params = t.params := by
  simp only [Tables.retagged]

/-- No image of a table is tagged REJECTED. -/
theorem all_notRejected_iff {n : Nat} (v : Vector Image20 n) :
    v.toList.all notRejected = true ↔ ∀ i, tagOf (v.get i) ≠ .rejected := by
  rw [List.all_eq_true]
  refine ⟨fun h i => ?_, fun h img himg => ?_⟩
  · have hmem : v.get i ∈ v.toList := Vector.mem_toList_iff.2 (Vector.getElem_mem i.isLt)
    simpa [notRejected] using h _ hmem
  · obtain ⟨i, hi, rfl⟩ := Vector.mem_iff_getElem.1 (Vector.mem_toList_iff.1 himg)
    exact bne_iff_ne.2 (h ⟨i, hi⟩)

/-- Tables are sound where no record fails and none is tagged REJECTED (R189, R197). -/
theorem sound_iff (t : Tables) : t.sound = true ↔ t.failing = [] ∧ (∀ e, tagOf (t.frt.get e) ≠ .rejected) ∧
    (∀ k, tagOf (t.rtt.get k) ≠ .rejected) ∧ (∀ i, tagOf (t.itt.get i) ≠ .rejected) ∧
    (∀ c, tagOf (t.drives.get c) ≠ .rejected) ∧ ∀ k, tagOf (t.tanks.get k) ≠ .rejected := by
  simp only [Tables.sound, Tables.noRejected, Bool.and_eq_true, List.isEmpty_iff, all_notRejected_iff, and_assoc]

/-! COMMIT. -/

/-- The mode and the drives allow a COMMIT (R186, log 10). -/
theorem commitAllowed_iff (s : State) : commitAllowed s = true ↔
    s.sys.fallback = true ∨ (s.ilk.mode = .parked ∧ s.drv.main.state = .disengaged ∧ s.drv.roll.state = .disengaged ∧
      (s.drv.aux.state = .disengaged ∨ s.drv.aux.state = .faulted)) := by
  simp [commitAllowed, drivesAtRest, and_assoc]

/-- A COMMIT that is not refused (R186). -/
theorem exec_commit_of_allowed {r : Request} {s : State} (hmgt : ToMgt s r.port r.begun) (hservice : s.service = true)
    (hidle : s.mgt.save = none) (hallowed : commitAllowed s = true) : exec (.commit r) s = .next (commit r s) := by
  refine exec_request_of_accepted hmgt (code := .commit) rfl (?_ : firstRefusal _ = none)
  rw [judgeService_of_service hservice, judgeSave_of_idle hidle, hallowed]; rfl

/-- Settles O16: the refusals in their order, the failure by the first failing record, the checks table by table. -/
theorem commitRefusedOrFailed : Obligations.CommitRefusedOrFailed := by
  refine ⟨fun r s hmgt => ?_, fun t => ?_, fun t failed => ?_⟩
  · intro atRest allowed out
    refine ⟨fun hservice => ?_, fun hservice hbusy => ?_, fun hservice hidle hbarred => ?_,
      fun hservice hidle hallowed tb ix rest hfailing => ?_⟩
    · refine exec_request_of_refusal hmgt (code := .commit) rfl (?_ : firstRefusal _ = some .refusedPrivilege)
      rw [judgeService_of_not hservice]; rfl
    · refine exec_request_of_refusal hmgt (code := .commit) rfl (?_ : firstRefusal _ = some .busy)
      rw [judgeService_of_service hservice, judgeSave_of_busy hbusy]; rfl
    · have hnot : commitAllowed s = false := Bool.eq_false_iff.2 (mt (commitAllowed_iff s).1 hbarred)
      refine exec_request_of_refusal hmgt (code := .commit) rfl (?_ : firstRefusal _ = some .refusedMode)
      rw [judgeService_of_service hservice, judgeSave_of_idle hidle, hnot]; rfl
    · have hcommit : commit r s = reply (failCommit s ((tb, ix) :: rest) (tb, ix)) .commit r .rejected
          [lowByte tb, lowByte ix, lowByte (rest.length + 1)] := by rw [commit, hfailing]
      exact (exec_commit_of_allowed hmgt hservice hidle ((commitAllowed_iff s).2 hallowed)).trans
        (congrArg Host.Outcome.next hcommit)
  · intro fails live judged namesTerm
    refine ⟨fun e => ?_, fun k => ?_, fun i => ?_, fun i => ?_, fun i => ?_, fun c => ?_, fun k => ?_, fun i => ?_,
      fun tb ix => failing_index_lt, failing_ordered t⟩
    · exact (mem_failing_of_judged (frt_judged t e)).trans (judged_eq_false_iff (frtFields_iff t (t.frt.get e)))
    · exact (mem_failing_of_judged (rtt_judged t k)).trans (judged_eq_false_iff (rttFields_iff t (t.rtt.get k)))
    · exact (mem_failing_of_judged (itt_judged t i)).trans (by
        rw [ittPasses_term]
        exact judged_eq_false_iff (ittFields_iff t i))
    · exact (mem_failing_of_judged (role_judged t i)).trans (roleOk_eq_false_iff _)
    · exact (mem_failing_of_judged (slot_judged t i)).trans (slotOk_eq_false_iff ..)
    · exact (mem_failing_of_judged (drive_judged t c)).trans (judged_eq_false_iff (driveFields_iff t (t.drives.get c)))
    · exact (mem_failing_of_judged (tank_judged t k)).trans (judged_eq_false_iff (tankFields_iff t k))
    · exact (mem_failing_of_judged (param_judged t i)).trans (paramOk_eq_false_iff t i)
  · exact ⟨get_ofFn_retag failed 0 t.frt, get_ofFn_retag failed 1 t.rtt, get_ofFn_retag failed 2 t.itt,
      get_ofFn_retag failed 5 t.drives, get_ofFn_retag failed 6 t.tanks, retagged_roles t failed, retagged_slots t failed,
      retagged_params t failed, sound_iff t⟩

end Sys2Proof.Proofs
end

section
/-! A frame's entry, and the steps of a frame that has one: extraction with the takings between its writes, heartbeat, action
(R19 to R22, R50 to R52, R57). -/

namespace Sys2Proof.Proofs

open Sys2Proof Sys2Proof.Machine Sys2Proof.Safety

/-! Lookup. -/

/-- An entry claims a frame by its tag, its port selector and its masked identifier (R19). -/
theorem frtClaims_iff (img : Image20) (p : Port) (id : Ident) :
    frtClaims img p id = true ↔ isValid img = true ∧
      (field img 8 2 = 2 ∨ (field img 8 2 = 0 ∧ p = .cp) ∨ (field img 8 2 = 1 ∧ p = .bp)) ∧
      id &&& frtMask img = frtValue img &&& frtMask img := by
  have hport : frtPortOk img p = true ↔
      field img 8 2 = 2 ∨ (field img 8 2 = 0 ∧ p = .cp) ∨ (field img 8 2 = 1 ∧ p = .bp) := by
    unfold frtPortOk
    split <;> simp_all
  rw [frtClaims, Bool.and_eq_true, Bool.and_eq_true, hport, beq_iff_eq, and_assoc]

/-- The first index with a property. -/
theorem find?_finRange_eq_some {n : Nat} (p : Fin n → Bool) (i : Fin n) :
    (List.finRange n).find? p = some i ↔ p i = true ∧ ∀ j < i, p j = false := by
  rw [List.find?_eq_some_iff_getElem]
  refine and_congr_right fun _ => ⟨?_, fun h => ?_⟩
  · rintro ⟨k, hk, hki, hbelow⟩ j hj
    rw [List.getElem_finRange] at hki
    have hjk : j.val < k := by rw [← hki] at hj; exact hj
    have hno := hbelow j.val hjk
    rw [List.getElem_finRange, Bool.not_eq_true'] at hno
    exact hno
  · refine ⟨i.val, by simp, by simp, fun j hj => ?_⟩
    rw [List.getElem_finRange, h _ (by exact hj)]
    rfl

/-- A frame for FRE that no entry claims takes UNMATCHED_ACTION (R21). -/
theorem exec_frameHandledByFre_of_no_entry {s : State} {a : Arrival} {id : Ident} (h : ToFre s a id)
    (hnone : s.active.lookup a.port id = none) (data : List Byte) :
    exec (.frameHandledByFre a id data) s = .next (unmatched s a.port (extFrame id data)) := by
  have htake : freTake s a (extFrame id data) = unmatched s a.port (extFrame id data) := by
    have hlookup : s.active.lookup a.port (extFrame id data).ident = none := hnone
    rw [freTake, hlookup]
  rw [exec_frameHandledByFre_of_toFre h, htake]

/-- Settles O23: the first index that claims, and UNMATCHED_ACTION without one. -/
theorem lookupAndUnmatchedFrames : Obligations.LookupAndUnmatchedFrames := by
  refine ⟨fun t p id => ?_, fun s a id data hfre hnone => ?_⟩
  · intro claims
    have hclaims (e : Fin 96) : frtClaims (t.frt.get e) p id = true ↔ claims e := frtClaims_iff (t.frt.get e) p id
    have hnot (e : Fin 96) : frtClaims (t.frt.get e) p id = false ↔ ¬claims e := by
      rw [← hclaims, Bool.not_eq_true]
    refine ⟨fun e => ?_, ?_⟩
    · rw [Tables.lookup, find?_finRange_eq_some, hclaims]
      simp only [hnot]
    · rw [Tables.lookup, List.find?_eq_none]
      exact ⟨fun h e => mt (hclaims e).2 (h e (List.mem_finRange e)), fun h e _ => mt (hclaims e).1 (h e)⟩
  · rw [exec_frameHandledByFre_of_no_entry hfre hnone, unmatched_eq]

/-! The steps of a matched frame. -/

/-- One FIELD_RANGE for each extraction out of range (R50, R51). -/
theorem rangeRaises_eq (s : State) (p : Port) (f : Frame) (e : Fin 96) (xs : List Extraction) :
    rangeRaises s p f e xs =
      List.replicate (xs.filter fun x => !x.fits f.data.length).length (.exceptionRaise (fieldRange s p f e)) :=
  List.map_const' ..

/-- A frame with an extraction out of range that FIELD_RANGE does not mask goes no further (R50). -/
theorem matched_of_not_goesOn {s : State} (a : Arrival) {f : Frame} {e : Fin 96}
    (h : goesOn s.active f.data.length (frtExtractions (s.entry e)) = false) :
    matched s a f e = s.post (rangeRaises s a.port f e (frtExtractions (s.entry e))) := by
  rw [matched, h]
  exact if_neg Bool.false_ne_true

/-- Without an extraction the first step does nothing (R22). -/
theorem extract_nil (s : State) (order : List (List Block)) (f : Frame) (e : Fin 96) : extract s order f e [] = s := by
  have hdrop : (waitingRises s).drop (waitingRises s).length = [] := List.drop_length
  rw [extract, writeAll, List.zipIdx_nil, List.foldl_nil, hdrop, List.foldl_nil]

/-- Step 2 follows step 1: a heartbeat where the entry has the flag (R22). -/
theorem atAction_eq (s : State) (a : Arrival) (f : Frame) (e : Fin 96) :
    let xs := frtExtractions (s.entry e)
    let u := extract (s.post (List.replicate (xs.filter fun x => !x.fits f.data.length).length
      (.exceptionRaise (fieldRange s a.port f e)))) a.order f e (xs.filter fun x => x.fits f.data.length)
    atAction s a f e = if frtHeartbeat (s.entry e) then u.post [.heartbeat] else u := by
  intro xs u
  rw [atAction, rangeRaises_eq]

/-- A block with no delivery takes none. -/
theorem takeOldest_of_none {s : State} {b : Block} (h : ∀ d ∈ s.outbox, receiver d ≠ some b) : takeOldest s b = s := by
  have hfind : s.outbox.find? (fun d => receiver d == some b) = none :=
    List.find?_eq_none.2 fun d hd heq => h d hd (beq_iff_eq.1 heq)
  rw [takeOldest, hfind]

/-- A block takes the oldest delivery that waits for it. -/
theorem takeOldest_of_oldest {s : State} {b : Block} {older newer : List Instr} {d : Instr}
    (hbox : s.outbox = older ++ d :: newer) (holder : ∀ x ∈ older, receiver x ≠ some b) (hd : receiver d = some b) :
    takeOldest s b = takeEvent d s := by
  have hfind : s.outbox.find? (fun d => receiver d == some b) = some d := by
    rw [List.find?_eq_some_iff_append]
    refine ⟨beq_iff_eq.2 hd, older, newer, hbox, fun x hx => ?_⟩
    rw [Bool.not_eq_true', beq_eq_false_iff_ne]
    exact holder x hx
  rw [takeOldest, hfind]

/-- In RUN a delivery's command is its taking. -/
theorem exec_takeEvent_of_running {s : State} {d : Instr} (hrun : Running s) (h : receiver d ≠ none) :
    exec d s = .next (takeEvent d s) :=
  (exec_takeEvent d s h).trans (congrArg Host.Outcome.next (inRun_of_running hrun _))

/-- Settles O24: step 1 unfolded into its writes and takings, which are those of the deliveries' own commands. -/
theorem matchedFrameSteps : Obligations.MatchedFrameSteps := by
  refine ⟨fun s a id data e => ?_, atAction_eq, fun s order f e xs => ?_, fun s b hrun => ⟨takeOldest_of_none, ?_⟩,
    fun _ _ _ _ _ _ _ => ⟨rfl, rfl, rfl, rfl⟩, fun s hrun => ⟨fun event => ?_, fun t => ?_⟩⟩
  · intro f xs out
    refine ⟨fun hfre hentry hrange hmask => ?_, exec_frameHandledByFre_of_handledBy, fun hxs => ?_⟩
    · have hgoes : goesOn s.active f.data.length (frtExtractions (s.entry e)) = false := by
        rw [← Bool.not_eq_true, goesOn_iff, hmask]
        rintro (hall | hmasked)
        · obtain ⟨x, hx, hout⟩ := hrange
          exact Bool.false_ne_true (hout.symm.trans (hall x hx))
        · exact Bool.false_ne_true hmasked
      have htake : freTake s a f = matched s a f e := by
        have hlookup : s.active.lookup a.port f.ident = some e := hentry
        rw [freTake, hlookup]
      refine (exec_frameHandledByFre_of_toFre hfre data).trans (congrArg Host.Outcome.next ?_)
      exact htake.trans ((matched_of_not_goesOn a hgoes).trans (congrArg s.post (rangeRaises_eq ..)))
    · have hempty : frtExtractions (s.entry e) = [] := hxs
      rw [atAction_eq, hempty]
      simp only [List.filter_nil, List.length_nil, List.replicate_zero, post_nil, extract_nil]
  · intro rise rises release turn write w
    have hrise : riseOf = rise := by funext d; cases d <;> rfl
    have hrises (v : State) : waitingRises v = rises v := by rw [waitingRises, hrise]
    have hrelease : (fun v t => freRiseTaking t v) = release := rfl
    have hturn : takeWithin (waitingRises s).length = turn := by
      funext v b
      show takeWithin (waitingRises s).length v b =
        if b = .fre then (match (rises v)[(rises s).length]? with | none => v | some t => release v t) else takeOldest v b
      rw [takeWithin, hrises, hrises]
      split
      · cases (rises v)[(rises s).length]? <;> rfl
      · rfl
    have hwrite (v : State) (first : List Block) (x : Extraction) :
        writeExtraction (waitingRises s).length f e first v x = write v first x := by
      rw [writeExtraction, hturn]
      rfl
    have hall : writeAll (waitingRises s).length f e order xs s = w :=
      congrArg (fun step => xs.zipIdx.foldl step s) (funext fun v => funext fun x => hwrite v (order.getD x.2 []) x.1)
    rw [extract, hall, hrises, hrises]
    rfl
  · intro older d newer hbox holder hd
    have htakes : receiver d ≠ none := by rw [hd]; exact nofun
    rw [exec_takeEvent_of_running hrun htakes, takeOldest_of_oldest hbox holder hd]
  · exact exec_takeEvent_of_running hrun nofun
  · exact exec_takeEvent_of_running hrun nofun

end Sys2Proof.Proofs
end

section
/-! The actions GATE and HOLD with the closed treatment, the events of the Hold Buffer, templates, and the reissue at a ceiling
fall (R25 to R27, R28 to R32, R34 to R43). -/

namespace Sys2Proof.Proofs

open Sys2Proof Sys2Proof.Machine Sys2Proof.Safety

/-! GATE and the closed treatment. -/

/-- A GATE entry with a term gates by it (R25). -/
theorem frameAction_of_gate {s : State} {e : Fin 96} {t : Fin 24} (haction : frtAction (s.entry e) = .gate)
    (hterm : frtTerm (s.entry e) = some t) (f : Frame) (p : Port) : frameAction s f p e = gateFrame s f p e t := by
  rw [frameAction, haction, hterm]

/-- A HOLD entry with a term holds by it (R27). -/
theorem frameAction_of_hold {s : State} {e : Fin 96} {t : Fin 24} (haction : frtAction (s.entry e) = .hold)
    (hterm : frtTerm (s.entry e) = some t) (f : Frame) (p : Port) : frameAction s f p e = holdFrame s f p e t := by
  rw [frameAction, haction, hterm]

/-- Without closed template the closed treatment discards the frame (R26). -/
theorem substitute_of_none {s : State} {e : Fin 96} (h : frtClosed (s.entry e) = none) (f : Frame) (p : Port) :
    substitute s f p e = s := by
  rw [substitute, h]

/-- With a closed template the closed treatment forwards through it (R26). -/
theorem substitute_of_some {s : State} {e : Fin 96} {k : Fin 16} (h : frtClosed (s.entry e) = some k) (f : Frame) (p : Port) :
    substitute s f p e = forwardVia s (some k) f p e := by
  rw [substitute, h]

/-- Without the report flag the closed treatment raises nothing (R26). -/
theorem closedTreatment_of_silent {s : State} {e : Fin 96} (h : frtReport (s.entry e) = false) (f : Frame) (p : Port)
    (t : Fin 24) (result : Tri) : closedTreatment s f p e t result = substitute s f p e := by
  rw [closedTreatment, h]
  exact if_neg Bool.false_ne_true

/-- With the report flag the closed treatment raises the class of the term's result (R26). -/
theorem closedTreatment_of_report {s : State} {e : Fin 96} (h : frtReport (s.entry e) = true) (f : Frame) (p : Port)
    (t : Fin 24) (result : Tri) :
    closedTreatment s f p e t result =
      (substitute s f p e).raise (gateRaise s (closedClass result) f p e t none) := by
  rw [closedTreatment, h]
  exact if_pos rfl

/-- Settles O26: the gate by its term, the closed treatment by the closed template and the report flag. -/
theorem gateEntriesAndClosedTreatment : Obligations.GateEntriesAndClosedTreatment := by
  refine ⟨fun s a id data e t hhandled haction hterm => ?_, fun u f p e t result => ?_⟩
  · intro f u
    have hentry : u.entry e = s.entry e := atAction_entry s a f e e
    have hgate : frameAction u f a.port e = gateFrame u f a.port e t :=
      frameAction_of_gate (hentry ▸ haction) (hentry ▸ hterm) f a.port
    refine (exec_frameHandledByFre_of_handledBy hhandled).trans (congrArg Host.Outcome.next (hgate.trans ?_))
    rw [gateFrame, hentry]
    rfl
  · intro report
    refine ⟨fun hclosed hreport => ?_, fun hclosed hreport => ?_, fun k hclosed hreport => ?_, fun k hclosed hreport => ?_⟩
    · rw [closedTreatment_of_silent hreport, substitute_of_none hclosed]
    · rw [closedTreatment_of_report hreport, substitute_of_none hclosed]
      rfl
    · rw [closedTreatment_of_silent hreport, substitute_of_some hclosed]
    · rw [closedTreatment_of_report hreport, substitute_of_some hclosed]
      rfl

/-! HOLD. -/

theorem same_iff (h : HeldFrame) (id : Ident) (e : Fin 96) : h.same id e = true ↔ h.frame.ident = id ∧ h.entry = e := by
  rw [HeldFrame.same, Bool.and_eq_true, beq_iff_eq, beq_iff_eq]

/-- A frame supersedes the held frame of its identifier and entry (R36). -/
theorem offerHold_of_same {s : State} {f : Frame} {e : Fin 96} (h : ∃ x ∈ s.fre.hold, x.frame.ident = f.ident ∧ x.entry = e)
    (p : Port) (t : Fin 24) :
    offerHold s f p e t =
      s.setHold (s.fre.hold.map fun x => if x.frame.ident = f.ident ∧ x.entry = e then { x with frame := f, arrival := p } else x) := by
  have hany : (s.fre.hold.any fun x => x.same f.ident e) = true := by
    obtain ⟨x, hx, hsame⟩ := h
    exact List.any_eq_true.2 ⟨x, hx, (same_iff ..).2 hsame⟩
  rw [offerHold, if_pos hany]
  simp only [same_iff]
  rfl

/-- No held frame has the identifier and the entry. -/
theorem any_same_eq_false {hold : List HeldFrame} {id : Ident} {e : Fin 96}
    (h : ∀ x ∈ hold, ¬(x.frame.ident = id ∧ x.entry = e)) : ¬(hold.any fun x => x.same id e) = true := by
  rw [List.any_eq_true]
  rintro ⟨x, hx, hsame⟩
  exact h x hx ((same_iff ..).1 hsame)

/-- A frame whose identifier another entry holds, or that finds the buffer full, is turned away (R37). -/
theorem offerHold_of_overflow {s : State} {f : Frame} {e : Fin 96}
    (hnone : ∀ x ∈ s.fre.hold, ¬(x.frame.ident = f.ident ∧ x.entry = e))
    (hover : (∃ x ∈ s.fre.hold, x.frame.ident = f.ident) ∨ 8 ≤ s.fre.hold.length) (p : Port) (t : Fin 24) :
    offerHold s f p e t = holdOverflow s f p e t := by
  have hturned : ((s.fre.hold.any fun x => x.frame.ident == f.ident) || decide (Config.holders ≤ s.fre.hold.length)) = true := by
    rw [Bool.or_eq_true, List.any_eq_true, decide_eq_true_eq]
    exact hover.imp (fun ⟨x, hx, hid⟩ => ⟨x, hx, beq_iff_eq.2 hid⟩) id
  rw [offerHold, if_neg (any_same_eq_false hnone)]
  exact if_pos hturned

/-- A frame with room and an identifier of its own is placed as the newest held frame (R35). -/
theorem offerHold_of_room {s : State} {f : Frame} (hnone : ∀ x ∈ s.fre.hold, x.frame.ident ≠ f.ident)
    (hroom : s.fre.hold.length < 8) (p : Port) (e : Fin 96) (t : Fin 24) :
    offerHold s f p e t = s.setHold (s.fre.hold ++ [placed s f p e t]) := by
  have hplaced : ¬((s.fre.hold.any fun x => x.frame.ident == f.ident) || decide (Config.holders ≤ s.fre.hold.length)) = true := by
    rw [Bool.or_eq_true, List.any_eq_true, decide_eq_true_eq]
    rintro (⟨x, hx, hid⟩ | hfull)
    · exact hnone x hx (beq_iff_eq.1 hid)
    · exact absurd hroom (Nat.not_lt.2 hfull)
  rw [offerHold, if_neg (any_same_eq_false fun x hx hsame => hnone x hx hsame.1)]
  exact if_neg hplaced

/-- Settles O27: HOLD by its term, then by what the Hold Buffer holds. -/
theorem holdEntries : Obligations.HoldEntries := by
  intro s a id data e t hhandled haction hterm p f u out
  have hentry : u.entry e = s.entry e := atAction_entry s a f e e
  have hhold : frameAction u f a.port e = holdFrame u f a.port e t :=
    frameAction_of_hold (hentry ▸ haction) (hentry ▸ hterm) f a.port
  have hout : out = .next (holdFrame u f p e t) :=
    (exec_frameHandledByFre_of_handledBy hhandled).trans (congrArg Host.Outcome.next hhold)
  refine ⟨fun htrue => ?_, fun hclosed => ?_⟩
  · have hforward : holdFrame u f p e t =
        forwardVia (u.setHold (u.fre.hold.filter fun x => !x.same f.ident e)) (frtOpen (u.entry e)) f p e := if_pos htrue
    rw [hout, hforward, hentry]
    rfl
  · have hoffer : holdFrame u f p e t = offerHold u f p e t := if_neg hclosed
    rw [hoffer] at hout
    refine ⟨fun hsame => ?_, fun hnone => ⟨fun hover => ?_, fun hfree hroom => ?_⟩⟩
    · exact hout.trans (congrArg Host.Outcome.next (offerHold_of_same hsame p t))
    · exact hout.trans (congrArg Host.Outcome.next (offerHold_of_overflow hnone hover p t))
    · have hplaced : placed u f p e t =
          { frame := f, arrival := p, entry := e, term := t, deadline := u.now + frtHoldTime (s.entry e) } := by
        rw [placed, hentry]
      rw [hout, offerHold_of_room hfree hroom, hplaced]

/-! Templates. -/

/-- A template with a patch out of range is not applied (R30). -/
theorem applyTemplate_of_range {img : Image20} {f : Frame} (h : ∃ x ∈ rttPatches img, 8 * f.data.length < x.start + x.len)
    (ceiling : Nat) : applyTemplate img ceiling f = none := by
  have hrange : ¬patchesInRange (rttPatches img) f.data.length = true := by
    rw [patchesInRange, List.all_eq_true]
    intro hall
    obtain ⟨x, hx, hout⟩ := h
    have hin : x.start + x.len ≤ 8 * f.data.length := of_decide_eq_true (hall x hx)
    omega
  exact if_neg hrange

/-- A template whose patches are in range gives the frame it replaces (R30 to R32). -/
theorem applyTemplate_of_fits {img : Image20} {f : Frame} (h : ∀ x ∈ rttPatches img, x.start + x.len ≤ 8 * f.data.length)
    (ceiling : Nat) :
    applyTemplate img ceiling f = some
      { ext := true, ident := (rttReplacement img).getD f.ident,
        data := (rttPatches img).foldl (applyPatch ceiling) f.data } := by
  have hrange : patchesInRange (rttPatches img) f.data.length = true := by
    rw [patchesInRange, List.all_eq_true]
    exact fun x hx => decide_eq_true (h x hx)
  exact if_pos hrange

/-- Forwarding where the template cannot be applied (R30). -/
theorem forwardVia_of_no_frame {s : State} {k : Fin 16} {f : Frame}
    (h : applyTemplate (s.active.rtt.get k) s.csu.applied.toNat f = none) (p : Port) (e : Fin 96) :
    forwardVia s (some k) f p e = s.raise (fieldRange s p f e) := by
  simp only [forwardVia, h]

/-- Forwarding the frame that the template gives (R28, R42). -/
theorem forwardVia_of_frame {s : State} {k : Fin 16} {f g : Frame}
    (h : applyTemplate (s.active.rtt.get k) s.csu.applied.toNat f = some g) (p : Port) (e : Fin 96) :
    forwardVia s (some k) f p e =
      if rttReissue (s.active.rtt.get k) then
        (queueForwarded s p.other (forwardRequest s g p e)).setReissue k
          (some (reissueRec s (s.active.rtt.get k) f g p e))
      else queueForwarded s p.other (forwardRequest s g p e) := by
  simp only [forwardVia, h]

/-- What a CLAMP writes fits its field and is at most the ceiling (R32). -/
theorem clampValue_lt {f len : Nat} (h : f < 2 ^ len) (c : Nat) : clampValue f c len < 2 ^ len ∧ clampValue f c len ≤ c := by
  unfold clampValue
  split
  case isTrue hfits => exact ⟨(Nat.min_le_left f c).trans_lt h, Nat.min_le_right f c⟩
  case isFalse hlarge => exact ⟨h, h.le.trans (Nat.not_lt.1 hlarge)⟩

theorem applyPatch_of_clamp {q : Patch} (h : q.clamp = true) (ceiling : Nat) (data : List Byte) :
    applyPatch ceiling data q =
      writeField data q.start q.len (clampValue (readField data q.start q.len) ceiling q.len) :=
  if_pos h

/-- Settles O29: forwarding by the range of the patches, a CLAMP by the field it writes. -/
theorem templateForwarding : Obligations.TemplateForwarding := by
  refine ⟨fun s k f p e => ?_, fun c data q hclamp hfit => ?_⟩
  · intro img ps g q
    refine ⟨fun hrange => ?_, fun hfit hplain => ?_, fun hfit hreissue => ?_⟩
    · exact forwardVia_of_no_frame (applyTemplate_of_range hrange _) p e
    · refine (forwardVia_of_frame (applyTemplate_of_fits hfit _) p e).trans ?_
      exact if_neg (Bool.eq_false_iff.1 hplain)
    · refine (forwardVia_of_frame (applyTemplate_of_fits hfit _) p e).trans ?_
      exact if_pos hreissue
  · intro f
    have hlt : f < 2 ^ q.len := Nat.mod_lt _ (Nat.two_pow_pos q.len)
    obtain ⟨hfits, hle⟩ := clampValue_lt hlt c
    have hread : readField (applyPatch c data q) q.start q.len = clampValue f c q.len := by
      rw [applyPatch_of_clamp hclamp, readField_writeField_same _ hfit, Nat.mod_eq_of_lt hfits]
    refine ⟨hread, hread.trans_le hle, ?_, fun start len hdisj => ?_⟩
    · rw [applyPatch_of_clamp hclamp, writeField_length]
    · rw [applyPatch_of_clamp hclamp, readField_writeField_disjoint _ hfit hdisj]

/-! The events of the Hold Buffer. -/

/-- Forwarding changes no table. -/
theorem forwardVia_keeps_active (s : State) (k : Option (Fin 16)) (f : Frame) (p : Port) (e : Fin 96) :
    (forwardVia s k f p e).active = s.active := by
  obtain ⟨fre, cp, bp, ob, hframe⟩ := forwardVia_frame s k f p e
  rw [hframe]

/-- Releases read the entries of the active tables, which no release changes (R38). -/
theorem foldl_releaseOne (s : State) (hs : List HeldFrame) (v : State) (hv : v.active = s.active) :
    hs.foldl releaseOne v =
      hs.foldl (fun v h => forwardVia v (frtOpen (s.entry h.entry)) h.frame h.arrival h.entry) v := by
  induction hs generalizing v with
  | nil => rw [List.foldl_nil, List.foldl_nil]
  | cons h hs ih =>
    have hone : releaseOne v h = forwardVia v (frtOpen (s.entry h.entry)) h.frame h.arrival h.entry := by
      rw [releaseOne, State.entry, hv, State.entry]
    have hactive : (forwardVia v (frtOpen (s.entry h.entry)) h.frame h.arrival h.entry).active = s.active :=
      (forwardVia_keeps_active v _ h.frame h.arrival h.entry).trans hv
    rw [List.foldl_cons, List.foldl_cons, hone, ih _ hactive]

/-- The deadline of a held frame, the first of its identifier (R39). -/
theorem holdDeadline_of_first {s : State} {before after : List HeldFrame} {h : HeldFrame}
    (hhold : s.fre.hold = before ++ h :: after) (hfirst : ∀ x ∈ before, x.frame.ident ≠ h.frame.ident) :
    holdDeadline s h.frame.ident = holdExpiry s h := by
  have hfind : s.fre.hold.find? (fun x => x.frame.ident == h.frame.ident) = some h := by
    rw [List.find?_eq_some_iff_append]
    refine ⟨beq_self_eq_true _, before, after, hhold, fun x hx => ?_⟩
    rw [Bool.not_eq_true', beq_eq_false_iff_ne]
    exact hfirst x hx
  rw [holdDeadline, hfind]

/-- Without the first frame of its identifier the others stay held, in order. -/
theorem erase_of_first {before after : List HeldFrame} {h : HeldFrame}
    (hfirst : ∀ x ∈ before, x.frame.ident ≠ h.frame.ident) : (before ++ h :: after).erase h = before ++ after := by
  have hnot : h ∉ before := fun hmem => hfirst h hmem rfl
  rw [List.erase_append_right _ hnot, List.erase_cons_head]

/-- Settles O30: rises and falls by the term's result, the deadline by the first held frame of its identifier. -/
theorem holdBufferEvents : Obligations.HoldBufferEvents := by
  refine ⟨fun s t hrun => ⟨fun hnot => ?_, fun htrue => ?_, ?_⟩, fun s before after h hrun hhold hfirst => ?_⟩
  · refine (exec_takeEvent_of_running (d := .termRiseAtFre t) hrun nofun).trans (congrArg Host.Outcome.next ?_)
    exact if_neg hnot
  · refine (exec_takeEvent_of_running (d := .termRiseAtFre t) hrun nofun).trans (congrArg Host.Outcome.next ?_)
    have hrise : takeEvent (.termRiseAtFre t) s =
        (s.fre.hold.filter fun h => h.term == t).foldl releaseOne
          ((s.taken (.termRiseAtFre t)).setHold (s.fre.hold.filter fun h => h.term != t)) := if_pos htrue
    rw [hrise]
    exact foldl_releaseOne s _ _ rfl
  · exact exec_takeEvent_of_running hrun nofun
  · intro u
    have hexpiry : holdDeadline s h.frame.ident =
        (closedTreatment u h.frame h.arrival h.entry h.term (u.term h.term)).raise
          (gateRaise u .holdDiscard h.frame h.arrival h.entry h.term (some .expired)) := by
      rw [holdDeadline_of_first hhold hfirst, holdExpiry, hhold, erase_of_first hfirst]
    exact (congrArg Host.Outcome.next (inRun_of_running hrun _)).trans (congrArg Host.Outcome.next hexpiry)

/-! Reissue. -/

/-- A record is due within its window, while a CLAMP field of it is above the ceiling (R43). -/
theorem qualifies_iff (s : State) (r : ReissueRec) :
    qualifies s r = true ↔ s.now - r.time < s.active.param 8 ∧
      ∃ c ∈ r.clamps, s.csu.applied.toNat < readField r.frame.data c.start c.len := by
  rw [qualifies, Bool.and_eq_true, decide_eq_true_eq, clampAbove, List.any_eq_true]
  simp only [decide_eq_true_eq]
  rfl

theorem reissueOne_of_none {s : State} {k : Fin 16} (h : s.fre.reissue.get k = none) : reissueOne s k = s := by
  rw [reissueOne, h]

theorem reissueOne_of_record {s : State} {k : Fin 16} {r : ReissueRec} (h : s.fre.reissue.get k = some r) :
    reissueOne s k =
      if qualifies s r then
        (queueForwarded s r.target { frame := reissued s r, arrival := r.arrival, entry := some r.entry, mark := true }).setReissue
          k (some { r with frame := reissued s r })
      else s := by
  rw [reissueOne, h]

/-- Settles O31: record by record, in rising template order. -/
theorem ceilingFallReissues : Obligations.CeilingFallReissues := by
  refine ⟨fun s hrun => exec_takeEvent_of_running hrun nofun, fun s k => ⟨reissueOne_of_none, fun r hr => ?_⟩⟩
  intro due g
  refine ⟨fun hnot => ?_, fun hdue => ?_⟩
  · rw [reissueOne_of_record hr, if_neg (mt (qualifies_iff s r).1 hnot)]
  · rw [reissueOne_of_record hr, if_pos ((qualifies_iff s r).2 hdue)]
    rfl

end Sys2Proof.Proofs
end

section
/-! Slot writes with their subscribers and stale timers, switch inputs and pulse inputs (R45 to R47, R57 to R64). -/

namespace Sys2Proof.Proofs

open Sys2Proof Sys2Proof.Machine Sys2Proof.Safety

/-! Subscribers. -/

theorem bound_iff (t : Tables) (r : Role) (i : Fin 32) : t.bound r i = true ↔ t.role r = some i := by
  rw [Tables.bound, beq_iff_eq]

/-- An image that a table holds stands at a place of the table. -/
theorem any_toList_iff {α : Type} {n : Nat} (v : Vector α n) (p : α → Bool) : v.toList.any p = true ↔ ∃ i, p (v.get i) = true := by
  rw [List.any_eq_true]
  refine ⟨?_, fun ⟨i, hi⟩ => ⟨v.get i, Vector.mem_toList_iff.2 (Vector.getElem_mem i.isLt), hi⟩⟩
  rintro ⟨x, hx, hp⟩
  obtain ⟨i, hi, rfl⟩ := Vector.mem_iff_getElem.1 (Vector.mem_toList_iff.1 hx)
  exact ⟨⟨i, hi⟩, hp⟩

/-- A term uses a slot where a SIGNAL condition of it names the slot (R58). -/
theorem termUsesSlot_iff (t : Tables) (i : Fin 32) :
    t.termUsesSlot i = true ↔ ∃ k rel lo h hi, Cond.signal i rel lo h hi ∈ t.conds k := by
  rw [Tables.termUsesSlot, any_toList_iff]
  refine exists_congr fun k => ?_
  rw [Bool.and_eq_true, List.any_eq_true]
  constructor
  · rintro ⟨hvalid, c, hc, huses⟩
    rw [conds_of_valid hvalid]
    cases c with
    | signal j rel lo h hi => exact ⟨rel, lo, h, hi, beq_iff_eq.1 huses ▸ hc⟩
    | mode | drive | band | supply | term => exact absurd huses Bool.false_ne_true
  · rintro ⟨rel, lo, h, hi, hmem⟩
    cases hvalid : isValid (t.itt.get k) with
    | false => rw [conds_of_not_valid hvalid] at hmem; cases hmem
    | true =>
      rw [conds_of_valid hvalid] at hmem
      exact ⟨rfl, _, hmem, beq_self_eq_true i⟩

theorem ilkSubscribes_iff (t : Tables) (i : Fin 32) : t.ilkSubscribes i = true ↔ t.role .roadSpeed = some i ∨
    t.role .parkBrake = some i ∨ ∃ k rel lo h hi, Cond.signal i rel lo h hi ∈ t.conds k := by
  rw [Tables.ilkSubscribes, Bool.or_eq_true, Bool.or_eq_true, bound_iff, bound_iff, termUsesSlot_iff, or_assoc]

theorem isSpeed_iff (d : DriveCfg) (i : Fin 32) :
    d.isSpeed i = true ↔ ∃ a b, d.speeds = some (a, b) ∧ (a = i ∨ b = i) := by
  unfold DriveCfg.isSpeed
  split
  case h_1 hnone => simp [hnone]
  case h_2 a b hsome => simp [hsome]

theorem drvSubscribes_iff (t : Tables) (i : Fin 32) : t.drvSubscribes i = true ↔ ∃ c : Channel, let d := t.drive c
    t.role (reqRole c) = some i ∨ d.confirm = some i ∨ ∃ a b, d.speeds = some (a, b) ∧ (a = i ∨ b = i) := by
  have hall (c : Channel) : c ∈ Channel.all := by cases c <;> decide
  simp only [Tables.drvSubscribes, List.any_eq_true, Bool.or_eq_true, bound_iff, isSpeed_iff, DriveCfg.isConfirm, beq_iff_eq, hall,
    true_and, or_assoc]

theorem tnkSubscribes_iff (t : Tables) (i : Fin 32) : t.tnkSubscribes i = true ↔ (∃ k : Tank, t.role (tankRole k) = some i) ∨
    t.role .intakePressure = some i ∨ t.role .reqTankValve = some i ∨ t.role .reqFill = some i := by
  have hall (k : Tank) : k ∈ Tank.all := by cases k <;> decide
  simp only [Tables.tnkSubscribes, List.any_eq_true, Bool.or_eq_true, bound_iff, hall, true_and, or_assoc]

/-! The Signal Table after extractions. -/

/-- What a slot write depends on and does to it: the Signal Table, the active tables and the clock. -/
def sigView (s : State) : SigRec × Tables × Nat := (s.sig, s.active, s.now)

/-- No taking touches the Signal Table, the active tables or the clock. -/
theorem sigView_takeEvent (d : Instr) (s : State) : sigView (takeEvent d s) = sigView s := by
  obtain ⟨_, _, _, _, _, _, _, _, _, _, h⟩ := takeEvent_frame d s
  rw [h]; rfl

/-- A slot write does the same to the Signal Table wherever it finds the same there. -/
theorem sigView_writeSlot {s u : State} (h : sigView s = sigView u) (i : Fin 32) (v : Raw) (w : Writer) :
    sigView (writeSlot s i v w) = sigView (writeSlot u i v w) := by
  obtain ⟨hsig, hrest⟩ := Prod.mk.inj h
  obtain ⟨hactive, hnow⟩ := Prod.mk.inj hrest
  have hview (x : State) : sigView (writeSlot x i v w) =
      ({ x.sig with slots := x.sig.slots.set i.val ((x.sig.slots.get i).written x.active i x.now v w) }, x.active, x.now) := rfl
  rw [hview, hview, hsig, hactive, hnow]

/-- The writes of a frame with their takings do to the Signal Table what the writes alone do (R52). -/
theorem sigView_writes (n : Nat) (f : Frame) (e : Fin 96) (order : List (List Block)) (xs : List Extraction) (k : Nat)
    {s u : State} (h : sigView s = sigView u) :
    sigView ((xs.zipIdx k).foldl (fun v x => writeExtraction n f e (order.getD x.2 []) v x.1) s) =
      sigView (xs.foldl (fun v x => writeSlot v x.slot (x.value f.data) (.entry e)) u) := by
  induction xs generalizing k s u with
  | nil => exact h
  | cons x xs ih =>
    rw [List.zipIdx_cons, List.foldl_cons, List.foldl_cons]
    refine ih (k + 1) ?_
    exact (writeExtraction_keeps sigView sigView_takeEvent n f e (order.getD k []) s x).trans (sigView_writeSlot h ..)

/-- The stale timer of a FRESH slot (R47). -/
theorem exec_staleTimerExpiry_of_fresh {s : State} {i : Fin 32} {t : Nat} (hrun : Running s) (hfresh : (s.slot i).fresh = .fresh)
    (htimer : (s.slot i).staleAt = some t) : exec (.staleTimerExpiry i) s = .next (staleSlot (s.clock t) i) := by
  have hexpiry : staleExpiry s i = staleSlot (s.clock t) i := by rw [staleExpiry, hfresh, htimer]
  exact congrArg Host.Outcome.next ((inRun_of_running hrun _).trans hexpiry)

/-- Settles O32: a write unfolded, the subscribers role by role, the writes of a frame without their takings, the stale timer. -/
theorem slotWritesAndStaleness : Obligations.SlotWritesAndStaleness := by
  refine ⟨fun _ _ _ _ => rfl, fun _ _ => rfl, fun t i => ⟨ilkSubscribes_iff t i, drvSubscribes_iff t i, tnkSubscribes_iff t i⟩,
    fun s order f e xs => ?_, fun s i t hrun hfresh htimer => exec_staleTimerExpiry_of_fresh hrun hfresh htimer⟩
  have hextract : sigView (extract s order f e xs) = sigView (writeAll (waitingRises s).length f e order xs s) :=
    extract_writes sigView sigView_takeEvent s order f e xs
  exact congrArg Prod.fst (hextract.trans (sigView_writes (waitingRises s).length f e order xs 0 rfl))

/-! Switch inputs. -/

/-- The command of a switch line is its level change, in RUN and outside (R48, R59). -/
theorem exec_switchLevelChange (sw : Fin 6) (high : Bool) (s : State) :
    exec (.switchLevelChange sw high) s = .next (levelChange s sw high) := rfl

/-- The level that the line already has changes nothing (log 4). -/
theorem levelChange_of_same {s : State} {sw : Fin 6} {high : Bool} (h : (s.sig.switches.get sw).line = high) :
    levelChange s sw high = s :=
  if_pos h

/-- A change in RUN restarts the debounce timer (R59). -/
theorem levelChange_of_running {s : State} {sw : Fin 6} {high : Bool} (h : (s.sig.switches.get sw).line ≠ high)
    (hrun : Running s) :
    levelChange s sw high =
      s.setSwitch sw { s.sig.switches.get sw with line := high, timer := some (s.now + s.active.debounce sw) } :=
  (if_neg h).trans (if_pos hrun)

/-- A change outside RUN is kept, and starts no timer (R48, log 8). -/
theorem levelChange_of_not_running {s : State} {sw : Fin 6} {high : Bool} (h : (s.sig.switches.get sw).line ≠ high)
    (hrun : ¬Running s) : levelChange s sw high = s.setSwitch sw { s.sig.switches.get sw with line := high } :=
  (if_neg h).trans (if_neg hrun)

/-- The debounce timer of a switch input expires (R59). -/
theorem exec_debounceExpiry_of_timer {s : State} {sw : Fin 6} {t : Nat} (hrun : Running s)
    (h : (s.sig.switches.get sw).timer = some t) :
    exec (.debounceExpiry sw) s = .next (
      if (s.sig.switches.get sw).accepted = some (s.sig.switches.get sw).line then
        (s.clock t).setSwitch sw { s.sig.switches.get sw with timer := none }
      else
        writeSlot ((s.clock t).setSwitch sw
            { s.sig.switches.get sw with accepted := some (s.sig.switches.get sw).line, timer := none })
          (switchSlot sw) (switchValue (s.active.inverted sw) (s.sig.switches.get sw).line) .line) := by
  have hend := inRun_of_running hrun fun s => debounceEnd s sw
  simp only [debounceEnd, h] at hend
  exact congrArg Host.Outcome.next hend

/-- A switch slot is written with 1 for high, unless inverted (R60). -/
theorem switchValue_eq (inverted level : Bool) : switchValue inverted level = if level = inverted then 0 else 1 := by
  cases inverted <;> cases level <;> rfl

/-! Pulse inputs. -/

/-- The command of a rising edge in RUN (R62 to R64). -/
theorem exec_pulseEdge_of_running {s : State} (hrun : Running s) (pi : Fin 4) :
    exec (.pulseEdge pi) s = .next (risingEdge s pi) :=
  congrArg Host.Outcome.next (inRun_of_running hrun _)

theorem risingEdge_of_off {s : State} {pi : Fin 4} (h : s.active.pulseMode pi = .off) : risingEdge s pi = s := by
  rw [risingEdge, h]

theorem risingEdge_of_speed {s : State} {pi : Fin 4} (h : s.active.pulseMode pi = .speed) :
    risingEdge s pi = s.setPulse pi { s.sig.pulses.get pi with count := (s.sig.pulses.get pi).count + 1 } := by
  rw [risingEdge, h]

theorem risingEdge_of_count {s : State} {pi : Fin 4} (h : s.active.pulseMode pi = .count) :
    risingEdge s pi =
      if s.active.divisor pi ≤ (s.sig.pulses.get pi).count + 1 then
        countUnit (s.setPulse pi { s.sig.pulses.get pi with count := 0 }) pi
      else s.setPulse pi { s.sig.pulses.get pi with count := (s.sig.pulses.get pi).count + 1 } := by
  rw [risingEdge, h]

/-- A counted unit is a unit for the tank that the input is bound to (R64). -/
theorem volumeDelivery_eq (t : Tables) (pi : Fin 4) :
    volumeDelivery t pi = (t.boundTank pi).toList.map fun k => .volumeUnit k := by
  unfold volumeDelivery
  cases t.boundTank pi <;> rfl

/-- A window ends (R63). -/
theorem exec_windowExpiry_of_window {s : State} {pi : Fin 4} {t : Nat} (hrun : Running s)
    (h : (s.sig.pulses.get pi).windowEnd = some t) :
    exec (.windowExpiry pi) s =
      .next ((writeSlot (s.clock t) (pulseSlot pi) (BitVec.ofNat 16 (min (s.sig.pulses.get pi).count 65535)) .line).setPulse pi
        ((s.sig.pulses.get pi).nextWindow (s.clock t).now)) := by
  have hend := inRun_of_running hrun fun s => windowEnds s pi
  simp only [windowEnds, h] at hend
  exact congrArg Host.Outcome.next hend

/-- Settles O33: switches by line and accepted level, pulses by mode and count. -/
theorem lineInputsAreSampled : Obligations.LineInputsAreSampled := by
  refine ⟨fun s sw => ?_, fun s pi hrun => ?_⟩
  · intro r
    refine ⟨fun high hsame => ?_, fun high hchange hrun => ?_, fun high hchange hrun => ?_,
      fun t hrun htimer => ⟨fun hback => ?_, fun hnew => ?_⟩⟩
    · rw [exec_switchLevelChange, levelChange_of_same hsame]
    · rw [exec_switchLevelChange, levelChange_of_running hchange hrun]
    · rw [exec_switchLevelChange, levelChange_of_not_running hchange hrun]
    · exact (exec_debounceExpiry_of_timer hrun htimer).trans (congrArg Host.Outcome.next (if_pos hback))
    · refine (exec_debounceExpiry_of_timer hrun htimer).trans (congrArg Host.Outcome.next ((if_neg hnew).trans ?_))
      rw [switchValue_eq]
  · intro r counted
    refine ⟨fun hoff => ?_, fun hspeed => ?_, fun hcount hbelow => ?_, fun hcount hunit => ?_, fun t hwindow => ?_⟩
    · rw [exec_pulseEdge_of_running hrun, risingEdge_of_off hoff]
    · rw [exec_pulseEdge_of_running hrun, risingEdge_of_speed hspeed]
    · rw [exec_pulseEdge_of_running hrun, risingEdge_of_count hcount, if_neg (Nat.not_le.2 hbelow)]
    · rw [exec_pulseEdge_of_running hrun, risingEdge_of_count hcount, if_pos hunit, countUnit, volumeDelivery_eq]
      rfl
    · exact exec_windowExpiry_of_window hrun hwindow

end Sys2Proof.Proofs
end

section
/-! The four takings of ILK: one equation for all of them, what they do to the conditions and the terms, and the mode (R67 to R90). -/

namespace Sys2Proof.Proofs

open Sys2Proof Sys2Proof.Machine Sys2Proof.Safety

/-! One equation for the four takings. -/

/-- The deliveries that ILK takes. -/
def IlkEvent (c : Instr) : Prop :=
  (∃ e, c = .ilkSlotEvent e) ∨ (∃ d, c = .ilkDriveStateChange d) ∨ (∃ k, c = .ilkBandChange k) ∨ c = .ilkSupplyChange

/-- The STOPPED latch after a taking (R83). -/
def latchTaken (s : State) : Instr → Bool
  | .ilkSlotEvent e => latchAfterEvent s e
  | _ => s.ilk.stopped

/-- The takings that bring the mode up to date (R86). -/
def reachesMode (t : Tables) : Instr → Bool
  | .ilkSlotEvent e => t.bound .roadSpeed e.slot || t.bound .parkBrake e.slot
  | .ilkDriveStateChange d => d != .aux
  | _ => false

/-- The mode after a taking (R87). -/
def modeTaken (s : State) (c : Instr) : Mode :=
  if reachesMode s.active c then modeNow (s.setStopped (latchTaken s c)) else s.ilk.mode

/-- What a taking does to the conditions that are not on the mode (R77). -/
def condTaken (s : State) : Instr → Cond → Tri → Tri
  | .ilkSlotEvent e => memAfterEvent e
  | .ilkDriveStateChange d => driveReach s d
  | .ilkBandChange k => bandReach s k
  | .ilkSupplyChange => supplyReach s
  | _ => fun _ m => m

/-- The state in which a taking comes to the conditions: latch and mode taken, a change of mode delivered (R77, R86). -/
def modeBrought (s : State) (c : Instr) : State :=
  { s with
    ilk := { s.ilk with stopped := latchTaken s c, mode := modeTaken s c }
    outbox := (s.taken c).outbox ++ modeDeliveries s.ilk.mode (modeTaken s c) }

/-- A mode that stays is not delivered (R88). -/
theorem modeDeliveries_self (m : Mode) : modeDeliveries m m = [] := if_pos rfl

/-- Where the taking reaches the mode. -/
theorem takeMode_of_reached {s : State} {c : Instr} (h : reachesMode s.active c = true) :
    takeMode ((s.taken c).setStopped (latchTaken s c)) = modeBrought s c := by
  have hmode : modeTaken s c = modeNow ((s.taken c).setStopped (latchTaken s c)) := if_pos h
  rw [takeMode_eq, modeBrought, hmode]
  rfl

/-- Where it does not. -/
theorem modeBrought_of_not_reached {s : State} {c : Instr} (h : reachesMode s.active c = false) :
    modeBrought s c = (s.taken c).setStopped (latchTaken s c) := by
  have hmode : modeTaken s c = s.ilk.mode := if_neg (Bool.eq_false_iff.1 h)
  rw [modeBrought, hmode, modeDeliveries_self, List.append_nil]
  rfl

/-- What a taking does to the conditions does not depend on ILK's state or the deliveries. -/
theorem driveReach_of_same {s u : State} {d : Channel} (h : u.chan d = s.chan d) : driveReach u d = driveReach s d := by
  funext c m
  cases c with
  | drive k set =>
    by_cases hk : k = d
    · subst hk
      show (if k = k then inputResult u (.drive k set) else m) = if k = k then inputResult s (.drive k set) else m
      rw [if_pos rfl, if_pos rfl, inputResult, inputResult, h]
    · exact (if_neg hk).trans (if_neg hk).symm
  | signal | mode | band | supply | term => rfl

/-- The four takings of ILK: latch and mode, then conditions and terms (R77). -/
theorem takeEvent_of_ilkEvent {c : Instr} (h : IlkEvent c) (s : State) :
    takeEvent c s = takeConds (modeBrought s c) s.ilk.mode (condTaken s c) := by
  rcases h with ⟨e, rfl⟩ | ⟨d, rfl⟩ | ⟨k, rfl⟩ | rfl
  · have htake : takeEvent (.ilkSlotEvent e) s = takeConds
        (if reachesMode s.active (.ilkSlotEvent e) then
          takeMode ((s.taken (.ilkSlotEvent e)).setStopped (latchTaken s (.ilkSlotEvent e)))
        else (s.taken (.ilkSlotEvent e)).setStopped (latchTaken s (.ilkSlotEvent e))) s.ilk.mode (memAfterEvent e) := rfl
    rw [htake]
    cases hreached : reachesMode s.active (.ilkSlotEvent e) with
    | true => rw [if_pos rfl, takeMode_of_reached hreached]; rfl
    | false => rw [if_neg Bool.false_ne_true, modeBrought_of_not_reached hreached]; rfl
  · have htake : takeEvent (.ilkDriveStateChange d) s = takeConds
        (if d = .aux then s.taken (.ilkDriveStateChange d) else takeMode (s.taken (.ilkDriveStateChange d))) s.ilk.mode
        (driveReach (if d = .aux then s.taken (.ilkDriveStateChange d) else takeMode (s.taken (.ilkDriveStateChange d))) d) := rfl
    have hbrought : (if d = .aux then s.taken (.ilkDriveStateChange d) else takeMode (s.taken (.ilkDriveStateChange d))) =
        modeBrought s (.ilkDriveStateChange d) := by
      by_cases haux : d = .aux
      · have hreached : reachesMode s.active (.ilkDriveStateChange d) = false := by rw [haux]; rfl
        rw [if_pos haux, modeBrought_of_not_reached hreached]
        rfl
      · have hreached : reachesMode s.active (.ilkDriveStateChange d) = true := bne_iff_ne.2 haux
        rw [if_neg haux, ← takeMode_of_reached hreached]
        rfl
    rw [htake, hbrought]
    exact congrArg (takeConds _ s.ilk.mode) (driveReach_of_same rfl)
  · rw [modeBrought_of_not_reached rfl]
    rfl
  · rw [modeBrought_of_not_reached rfl]
    rfl

/-- The results that the conditions hold after a taking. -/
def memTaken (s : State) (c : Instr) : Vector (Vector Tri 4) 24 :=
  memMap (modeBrought s c) (reachConds (modeBrought s c) s.ilk.mode (condTaken s c))

/-- The results of the terms after a taking. -/
def termsTaken (s : State) (c : Instr) : Vector Tri 24 := allResults ((modeBrought s c).setMem (memTaken s c))

/-- ILK's state after a taking. -/
def ilkTaken (s : State) (c : Instr) : IlkRec :=
  { mem := memTaken s c, terms := termsTaken s c, mode := modeTaken s c, stopped := latchTaken s c }

/-- The deliveries after a taking of ILK. -/
def boxTaken (s : State) (c : Instr) : List Instr :=
  (s.taken c).outbox ++ modeDeliveries s.ilk.mode (modeTaken s c) ++ termDeliveries s.ilk.terms (termsTaken s c)

/-- The command of a delivery to ILK changes ILK's state and the deliveries (R77). -/
theorem exec_of_ilkEvent {c : Instr} (h : IlkEvent c) {s : State} (hrun : Running s) :
    exec c s = .next { s with ilk := ilkTaken s c, outbox := boxTaken s c } := by
  have hreceiver : receiver c ≠ none := by rcases h with ⟨e, rfl⟩ | ⟨d, rfl⟩ | ⟨k, rfl⟩ | rfl <;> exact nofun
  rw [exec_takeEvent_of_running hrun hreceiver, takeEvent_of_ilkEvent h, takeConds_eq _ _ _ rfl rfl]
  rfl

/-! The conditions. -/

/-- What the place of a condition holds after a taking. -/
theorem memTaken_get {s : State} (c : Instr) {t : Fin 24} {j : Fin 4} {cond : Cond}
    (h : (s.active.conds t)[j.val]? = some cond) :
    ((ilkTaken s c).mem.get t).get j =
      reachConds (modeBrought s c) s.ilk.mode (condTaken s c) cond ((s.ilk.mem.get t).get j) :=
  memMap_cond (modeBrought s c) (reachConds (modeBrought s c) s.ilk.mode (condTaken s c)) h

/-- TRUE where the supply is the one that the condition names. -/
theorem ofBool_beq {α : Type} [DecidableEq α] (a b : α) : Tri.ofBool (a == b) = if a = b then .tt else .ff := by
  by_cases h : a = b <;> simp [h, Tri.ofBool]

/-- Comparisons without hysteresis (R72). -/
theorem afterWrite_plain (lo h hi v : Raw) (m : Tri) :
    afterWrite .lt lo h hi .unknown v = (if v.toNat < lo.toNat then .tt else .ff) ∧
    afterWrite .ge lo h hi .unknown v = (if lo.toNat ≤ v.toNat then .tt else .ff) ∧
    afterWrite .inside lo h hi .unknown v = (if lo.toNat ≤ v.toNat ∧ v.toNat ≤ hi.toNat then .tt else .ff) ∧
    afterWrite .eq lo h hi m v = (if v = lo then .tt else .ff) ∧
    afterWrite .ne lo h hi m v = (if v = lo then .ff else .tt) := by
  refine ⟨ofBool_decide _, ofBool_decide _, ?_, ?_, ?_⟩
  · show Tri.ofBool (decide (lo.toNat ≤ v.toNat) && decide (v.toNat ≤ hi.toNat)) = _
    rw [← Bool.decide_and, ofBool_decide]
  · exact ofBool_beq v lo
  · by_cases h : v = lo <;> simp [afterWrite, plain, Tri.ofBool, h]

/-- Settles O35: each kind of condition by the taking that reaches it. -/
theorem conditionsTakeTheirInputs : Obligations.ConditionsTakeTheirInputs := by
  refine ⟨afterWrite_plain, fun s c hrun hevent => ⟨ilkTaken s c, boxTaken s c, exec_of_ilkEvent hevent hrun,
    fun t j cond hcond => ?_⟩, fun results m => ⟨fun t => rfl, fun c hc => ?_⟩⟩
  · intro before after
    have hafter : after = reachConds (modeBrought s c) s.ilk.mode (condTaken s c) cond before := memTaken_get c hcond
    cases cond with
    | signal i rel lo h hi =>
      have hsignal : after = condTaken s c (.signal i rel lo h hi) before := hafter
      refine ⟨fun hother => ?_, fun v hc => ?_, fun v old fr w hc => ?_⟩
      · rw [hsignal]
        rcases hevent with ⟨e, rfl⟩ | ⟨d, rfl⟩ | ⟨k, rfl⟩ | rfl
        · exact if_neg (hother e rfl)
        all_goals rfl
      · rw [hsignal, hc]
        exact if_pos rfl
      · rw [hsignal, hc]
        exact if_pos rfl
    | mode set =>
      have hmode : after = if modeTaken s c = s.ilk.mode then before else Tri.ofBool (set.getLsbD (modeCode (modeTaken s c))) :=
        hafter
      exact ⟨fun hsame => hmode.trans (if_pos hsame), fun hchange => hmode.trans (if_neg hchange)⟩
    | drive d set =>
      have hdrive : after = condTaken s c (.drive d set) before := hafter
      refine ⟨fun hother => ?_, fun hc => ?_⟩
      · rw [hdrive]
        rcases hevent with ⟨e, rfl⟩ | ⟨d', rfl⟩ | ⟨k, rfl⟩ | rfl
        · rfl
        · exact if_neg fun heq : d = d' => hother (heq ▸ rfl)
        all_goals rfl
      · rw [hdrive, hc]
        exact if_pos rfl
    | band k set =>
      have hband : after = condTaken s c (.band k set) before := hafter
      refine ⟨fun hother => ?_, fun hc => ?_⟩
      · rw [hband]
        rcases hevent with ⟨e, rfl⟩ | ⟨d', rfl⟩ | ⟨k', rfl⟩ | rfl
        · rfl
        · rfl
        · exact if_neg fun heq : k = k' => hother (heq ▸ rfl)
        · rfl
      · rw [hband, hc]
        exact if_pos rfl
    | supply v =>
      have hsupply : after = condTaken s c (.supply v) before := hafter
      refine ⟨fun hother => ?_, fun hc => ?_⟩
      · rw [hsupply]
        rcases hevent with ⟨e, rfl⟩ | ⟨d', rfl⟩ | ⟨k', rfl⟩ | rfl
        · rfl
        · rfl
        · rfl
        · exact absurd rfl hother
      · rw [hsupply, hc]
        exact ofBool_beq s.tnk.supply v
    | term k => trivial
  · cases c with
    | term t => exact absurd rfl (hc t)
    | signal | mode | drive | band | supply => rfl

/-! The terms. -/

/-- Settles O37: one pass in rising order settles every term; the deliveries are those of mode and terms. -/
theorem termsSettleInOneTaking : Obligations.TermsSettleInOneTaking := by
  intro s c hrun hevent hlower
  have hsettled (t : Fin 24) : (ilkTaken s c).terms.get t =
      termResult { s with ilk := ilkTaken s c } (ilkTaken s c).terms t := by
    have hterms : (ilkTaken s c).terms = termsTaken s c := rfl
    have hresult : (termsTaken s c).get t = termResult ((modeBrought s c).setMem (memTaken s c)) (termsTaken s c) t :=
      allResults_settles ((modeBrought s c).setMem (memTaken s c)) hlower t
    rw [hterms, hresult]
    exact termResult_of_same { s with ilk := ilkTaken s c } ((modeBrought s c).setMem (memTaken s c)) (termsTaken s c)
      (termsTaken s c) t rfl rfl fun _ _ => rfl
  refine ⟨ilkTaken s c, boxTaken s c, exec_of_ilkEvent hevent hrun, hsettled, fun t hbefore hmem hterms => ?_, fun hslot => ?_, rfl⟩
  · rw [hsettled t, hbefore]
    exact termResult_of_same s { s with ilk := ilkTaken s c } _ _ t rfl hmem hterms
  · show latchTaken s c = s.ilk.stopped
    rcases hevent with ⟨e, rfl⟩ | ⟨d, rfl⟩ | ⟨k, rfl⟩ | rfl
    · exact absurd rfl (hslot e)
    all_goals rfl

/-! The mode. -/

/-- The latch under a FRESH speed: set up to STOP_SPEED, cleared above the hysteresis, kept between (R83). -/
theorem stoppedAt_eq (t : Tables) (before : Bool) (v : Raw) : stoppedAt t before v =
    (decide (v.toNat ≤ t.param 9) || (before && decide (v.toNat ≤ t.param 9 + t.param 10))) := by
  unfold stoppedAt Tables.stopSpeed Tables.stopHyst
  by_cases hslow : v.toNat ≤ t.param 9
  · simp [hslow]
  · by_cases hfast : t.param 9 + t.param 10 < v.toNat
    · simp [hslow, hfast, Nat.not_le.2 hfast]
    · simp [hslow, hfast, Nat.not_lt.1 hfast]

/-- A slot event reaches the latch where its slot is bound to ROAD_SPEED (R83). -/
theorem latchAfterEvent_of_unbound {s : State} {e : SlotEvent} (h : s.active.role .roadSpeed ≠ some e.slot) :
    latchAfterEvent s e = s.ilk.stopped :=
  if_neg (mt (bound_iff ..).1 h)

/-- A slot event reaches the mode where its slot is bound to ROAD_SPEED or PARK_BRAKE (R86). -/
theorem reachesMode_slotEvent (t : Tables) (e : SlotEvent) : reachesMode t (.ilkSlotEvent e) = true ↔
    t.role .roadSpeed = some e.slot ∨ t.role .parkBrake = some e.slot := by
  rw [reachesMode, Bool.or_eq_true, bound_iff, bound_iff]

/-- Settles O38: the takings that reach the mode give it by its table, the others leave it. -/
theorem modeFollowsItsTable : Obligations.ModeFollowsItsTable := by
  intro s c hrun bound
  refine ⟨fun hreach => ?_, fun hother => ?_⟩
  · have hevent : IlkEvent c := by
      rcases hreach with ⟨e, rfl, -⟩ | rfl | rfl
      · exact .inl ⟨e, rfl⟩
      · exact .inr (.inl ⟨_, rfl⟩)
      · exact .inr (.inl ⟨_, rfl⟩)
    have hreached : reachesMode s.active c = true := by
      rcases hreach with ⟨e, rfl, hbound⟩ | rfl | rfl
      · exact (reachesMode_slotEvent ..).2 hbound
      · rfl
      · rfl
    have hmode : modeTaken s c = modeNow (s.setStopped (latchTaken s c)) := if_pos hreached
    refine ⟨ilkTaken s c, boxTaken s c, exec_of_ilkEvent hevent hrun, fun v old fr w i hc hrole => ?_, fun v i hc hrole => ?_,
      fun hunbound => ?_, ?_⟩
    · show latchTaken s c = _
      rw [hc, ← stoppedAt_eq]
      exact if_pos ((bound_iff ..).2 hrole)
    · show latchTaken s c = _
      rw [hc]
      exact if_pos ((bound_iff ..).2 hrole)
    · show latchTaken s c = _
      rcases hevent with ⟨e, rfl⟩ | ⟨d, rfl⟩ | ⟨k, rfl⟩ | rfl
      · exact latchAfterEvent_of_unbound (hunbound e rfl)
      all_goals rfl
    · have htabled := modeNow_tabled s (latchTaken s c)
      rw [← hmode] at htabled
      exact htabled
  · have hevent : IlkEvent c := by
      rcases hother with ⟨e, rfl, -⟩ | rfl | hband | rfl
      · exact .inl ⟨e, rfl⟩
      · exact .inr (.inl ⟨_, rfl⟩)
      · exact .inr (.inr (.inl hband))
      · exact .inr (.inr (.inr rfl))
    have hnot : ¬reachesMode s.active c = true := by
      rcases hother with ⟨e, rfl, hunbound⟩ | rfl | ⟨k, rfl⟩ | rfl
      · exact mt (reachesMode_slotEvent ..).1 hunbound
      all_goals exact Bool.false_ne_true
    have hlatch : latchTaken s c = s.ilk.stopped := by
      rcases hother with ⟨e, rfl, hunbound⟩ | rfl | ⟨k, rfl⟩ | rfl
      · exact latchAfterEvent_of_unbound fun hrole => hunbound (.inl hrole)
      all_goals rfl
    exact ⟨ilkTaken s c, boxTaken s c, exec_of_ilkEvent hevent hrun, if_neg hnot, hlatch⟩

end Sys2Proof.Proofs
end

section
/-! DRV: a channel's state with its line and its deliveries, slot events at the channels, the losses that release them, and their
timers (R92 to R114). -/

namespace Sys2Proof.Proofs

open Sys2Proof Sys2Proof.Machine Sys2Proof.Safety

/-! State and line. -/

/-- The line is on from SHIFTING to ENGAGED (R95). -/
theorem lineOn_eq (st : DriveState) : lineOn st = decide (st = .shifting ∨ st = .verifying ∨ st = .engaged) := by
  cases st <;> rfl

/-- Settles O39: the line by the new state, the deliveries by whether the state changed. -/
theorem channelStateAndLine : Obligations.ChannelStateAndLine := by
  intro s c r u
  have hline : (s.setChan c r).setLine c (lineOn r.state) = u := by rw [lineOn_eq]
  refine ⟨fun hsame => ?_, fun hchange => ?_⟩
  · exact (if_pos hsame).trans hline
  · exact (if_neg hchange).trans (congrArg (fun v => v.post (driveDeliveries c r.state)) hline)

/-! The request of a slot event. -/

/-- A slot event that is no edge of the channel's REQ role asks nothing of it (R97). -/
theorem channelRequest_of_unbound {s : State} {c : Channel} {e : SlotEvent} (h : s.active.role (reqRole c) ≠ some e.slot) :
    channelRequest e s c = s :=
  if_neg (mt (bound_iff ..).1 h)

/-- The request of an event of the REQ role, by its edge (R97). -/
theorem channelRequest_of_bound {s : State} {c : Channel} {e : SlotEvent} (h : s.active.role (reqRole c) = some e.slot) :
    channelRequest e s c = match requestEdge e with
      | some true => (engage s c .signal).1
      | some false => (disengage s c).1
      | none => s :=
  if_pos ((bound_iff ..).2 h)

theorem channelRequest_of_rise {s : State} {c : Channel} {e : SlotEvent} (h : s.active.role (reqRole c) = some e.slot)
    (hedge : requestEdge e = some true) : channelRequest e s c = (engage s c .signal).1 := by
  rw [channelRequest_of_bound h, hedge]

theorem channelRequest_of_fall {s : State} {c : Channel} {e : SlotEvent} (h : s.active.role (reqRole c) = some e.slot)
    (hedge : requestEdge e = some false) : channelRequest e s c = (disengage s c).1 := by
  rw [channelRequest_of_bound h, hedge]

/-- An event without edge asks nothing of any channel (R97). -/
theorem channelRequest_of_no_edge {e : SlotEvent} (hedge : requestEdge e = none) (s : State) (c : Channel) :
    channelRequest e s c = s := by
  by_cases h : s.active.role (reqRole c) = some e.slot
  · rw [channelRequest_of_bound h, hedge]
  · exact channelRequest_of_unbound h

/-- A write that keeps a slot at 0 or away from 0 has no edge (R97). -/
theorem requestEdge_eq_none {i : Fin 32} {v before : Raw} {fr : Freshness} {w : Writer} (h : before = 0 ↔ v = 0) :
    requestEdge (.written i v before fr w) = none := by
  have hrise : ¬(before = 0 ∧ v ≠ 0) := fun hboth => hboth.2 (h.1 hboth.1)
  have hfall : ¬(before ≠ 0 ∧ v = 0) := fun hboth => hboth.1 (h.2 hboth.2)
  exact (if_neg hrise).trans (if_neg hfall)

/-- A disengage request releases a channel on its way to ENGAGED or in it (R108). -/
theorem disengage_of_active {s : State} {c : Channel}
    (h : (s.chan c).state = .shifting ∨ (s.chan c).state = .verifying ∨ (s.chan c).state = .engaged) :
    disengage s c = (enterReleasing s c .disengage, .ok) := by
  rcases h with h | h | h <;> simp only [disengage, h]

/-- In every other state it changes nothing (R108). -/
theorem disengage_of_inactive {s : State} {c : Channel}
    (h : (s.chan c).state = .disengaged ∨ (s.chan c).state = .releasing ∨ (s.chan c).state = .faulted) :
    disengage s c = (s, .ok) := by
  rcases h with h | h | h <;> simp only [disengage, h]

/-! The checks of a slot event. -/

/-- A slot going stale is no write, and examines nothing (R105, R107). -/
theorem channelCheck_of_stale (s : State) (c : Channel) (i : Fin 32) (v : Raw) : channelCheck (.stale i v) s c = s := rfl

/-- Only a channel in VERIFYING or ENGAGED is examined (R105, R107). -/
theorem channelCheck_of_unwatched {s : State} {c : Channel} (hverifying : (s.chan c).state ≠ .verifying)
    (hengaged : (s.chan c).state ≠ .engaged) (e : SlotEvent) : channelCheck e s c = s := by
  cases e with
  | stale i v => rfl
  | written i v before fr w =>
    cases h : (s.chan c).state with
    | verifying => exact absurd h hverifying
    | engaged => exact absurd h hengaged
    | disengaged | shifting | releasing | faulted => simp only [channelCheck, h]

/-- VERIFYING examines its checks at a write of a check slot (R105). -/
theorem channelCheck_of_verifying {s : State} {c : Channel} (h : (s.chan c).state = .verifying) (i : Fin 32) (v before : Raw)
    (fr : Freshness) (w : Writer) :
    channelCheck (.written i v before fr w) s c =
      if ((s.active.drive c).isConfirm i || (s.active.drive c).isSpeed i) && checksHold s c then enterEngaged s c else s := by
  simp only [channelCheck, h]

/-- ENGAGED watches its confirm switch (R107). -/
theorem channelCheck_of_engaged {s : State} {c : Channel} (h : (s.chan c).state = .engaged) (i : Fin 32) (v before : Raw)
    (fr : Freshness) (w : Writer) :
    channelCheck (.written i v before fr w) s c =
      if (s.active.drive c).isConfirm i && v.toNat != (s.active.drive c).level then enterFaulted s c .confirmLost .engageLost
      else s := by
  simp only [channelCheck, h]

/-- The check slots of a channel (R105). -/
theorem isCheck_iff (d : DriveCfg) (i : Fin 32) : (d.isConfirm i || d.isSpeed i) = true ↔
    d.confirm = some i ∨ ∃ a b, d.speeds = some (a, b) ∧ (a = i ∨ b = i) := by
  rw [Bool.or_eq_true, isSpeed_iff, DriveCfg.isConfirm, beq_iff_eq]

/-- A slot event at DRV reaches the channels in the order MAIN, ROLL, AUX (R97). -/
theorem exec_drvSlotEvent_of_running {s : State} (hrun : Running s) (e : SlotEvent) :
    exec (.drvSlotEvent e) s =
      .next (channelSlot e (channelSlot e (channelSlot e (s.taken (.drvSlotEvent e)) .main) .roll) .aux) :=
  exec_takeEvent_of_running (d := .drvSlotEvent e) hrun nofun

/-- Settles O41: the request by its edge, the checks by the channel's state. -/
theorem slotEventsAtTheDrives : Obligations.SlotEventsAtTheDrives := by
  refine ⟨fun s e hrun => exec_drvSlotEvent_of_running hrun e, fun s c e => ?_⟩
  intro d asked
  refine ⟨rfl, fun hnot => ?_, fun i v before fr w he hasked => ⟨fun hbefore hv => ?_, fun hbefore hv => ?_, fun hboth => ?_⟩,
    fun hactive => congrArg Prod.fst (disengage_of_active hactive), fun hidle => congrArg Prod.fst (disengage_of_inactive hidle),
    disengage_ok s c, fun i v he => ?_, fun hverifying hengaged => channelCheck_of_unwatched hverifying hengaged e,
    fun i v before fr w he => ?_⟩
  · rcases hnot with hunbound | ⟨i, v, rfl⟩
    · exact channelRequest_of_unbound hunbound
    · exact channelRequest_of_no_edge rfl s c
  · refine channelRequest_of_rise hasked ?_
    rw [he]
    exact if_pos ⟨hbefore, hv⟩
  · refine channelRequest_of_fall hasked ?_
    rw [he]
    exact (if_neg fun hrise => hbefore hrise.1).trans (if_pos ⟨hbefore, hv⟩)
  · exact channelRequest_of_no_edge (by rw [he]; exact requestEdge_eq_none hboth) s c
  · rw [he, channelCheck_of_stale]
  · intro check
    have hcheck : (d.isConfirm i || d.isSpeed i) = true ↔ check := isCheck_iff d i
    have hconfirm : d.isConfirm i = true ↔ d.confirm = some i := beq_iff_eq
    rw [he]
    refine ⟨fun hstate hslot hconfirms hratio => ?_, fun hstate hfails => ?_, fun hstate hslot hlevel => ?_,
      fun hstate hkept => ?_⟩
    · have hholds : ((d.isConfirm i || d.isSpeed i) && checksHold s c) = true := by
        rw [Bool.and_eq_true, checksHold, Bool.and_eq_true]
        exact ⟨hcheck.2 hslot, hconfirms, hratio⟩
      exact (channelCheck_of_verifying hstate ..).trans (if_pos hholds)
    · have hholds : ¬((d.isConfirm i || d.isSpeed i) && checksHold s c) = true := by
        rw [Bool.and_eq_true, checksHold, Bool.and_eq_true]
        rintro ⟨hslot, hconfirms, hratio⟩
        rcases hfails with hno | hfail | hfail
        · exact hno (hcheck.1 hslot)
        · exact Bool.false_ne_true (hfail.symm.trans hconfirms)
        · exact Bool.false_ne_true (hfail.symm.trans hratio)
      exact (channelCheck_of_verifying hstate ..).trans (if_neg hholds)
    · have hlost : (d.isConfirm i && v.toNat != d.level) = true := by
        rw [Bool.and_eq_true, bne_iff_ne]
        exact ⟨hconfirm.2 hslot, hlevel⟩
      exact (channelCheck_of_engaged hstate ..).trans (if_pos hlost)
    · have hlost : ¬(d.isConfirm i && v.toNat != d.level) = true := by
        rw [Bool.and_eq_true, bne_iff_ne]
        rintro ⟨hslot, hlevel⟩
        rcases hkept with hother | hsame
        · exact hother (hconfirm.1 hslot)
        · exact hlevel hsame
      exact (channelCheck_of_engaged hstate ..).trans (if_neg hlost)

/-! Losses. -/

/-- A fall reaches only the channels whose permit it is (R110). -/
theorem channelFall_of_other {s : State} {c : Channel} {t : Fin 24} (h : (s.active.drive c).permit ≠ some t) :
    channelFall t s c = s :=
  if_neg h

/-- A channel that is not on its way to ENGAGED or in it loses no permit (R110). -/
theorem channelFall_of_inactive {s : State} {c : Channel}
    (h : (s.chan c).state = .disengaged ∨ (s.chan c).state = .releasing ∨ (s.chan c).state = .faulted) (t : Fin 24) :
    channelFall t s c = s := by
  unfold channelFall
  rcases h with h | h | h <;> simp only [h, ite_self]

/-- A channel on its way to ENGAGED is released, and so is one in it under policy RELEASE (R110). -/
theorem channelFall_of_released {s : State} {c : Channel} {t : Fin 24} (hpermit : (s.active.drive c).permit = some t)
    (h : (s.chan c).state = .shifting ∨ (s.chan c).state = .verifying ∨
      ((s.chan c).state = .engaged ∧ (s.active.drive c).releaseOnLoss = true)) :
    channelFall t s c = (enterReleasing s c .permitLost).raise (permitLost s c t) := by
  rcases h with h | h | ⟨h, hpolicy⟩
  · simp only [channelFall, hpermit, h, if_true]
  · simp only [channelFall, hpermit, h, if_true]
  · simp only [channelFall, hpermit, h, hpolicy, if_true]

/-- Under policy HOLD the loss is raised, and the channel stays (R110). -/
theorem channelFall_of_held {s : State} {c : Channel} {t : Fin 24} (hpermit : (s.active.drive c).permit = some t)
    (h : (s.chan c).state = .engaged) (hpolicy : (s.active.drive c).releaseOnLoss = false) :
    channelFall t s c = s.raise (permitLost s c t) := by
  simp only [channelFall, hpermit, h, hpolicy, if_true, Bool.false_eq_true, if_false]

/-- A lapse of supervision releases a channel on its way to ENGAGED (R112). -/
theorem channelLapse_of_way {s : State} {c : Channel} (h : (s.chan c).state = .shifting ∨ (s.chan c).state = .verifying) :
    channelLapse s c = enterReleasing s c .supervision := by
  rcases h with h | h <;> simp only [channelLapse, h]

/-- And no other (R112). -/
theorem channelLapse_of_other {s : State} {c : Channel} (hshifting : (s.chan c).state ≠ .shifting)
    (hverifying : (s.chan c).state ≠ .verifying) : channelLapse s c = s := by
  cases h : (s.chan c).state with
  | shifting => exact absurd h hshifting
  | verifying => exact absurd h hverifying
  | disengaged | engaged | releasing | faulted => simp only [channelLapse, h]

/-- Settles O44: falls and lapses channel by channel, the run-dry request at its channel. -/
theorem lossesReleaseChannels : Obligations.LossesReleaseChannels := by
  refine ⟨fun s t hrun => exec_takeEvent_of_running (d := .permitTermFall t) hrun nofun,
    fun s hrun => exec_takeEvent_of_running (d := .supervisionLapse) hrun nofun, fun s c => ?_⟩
  intro d st released
  refine ⟨fun t hnot => ?_, fun t hpermit => ⟨fun hreleased => ?_, fun hengaged hpolicy => ?_⟩, fun hway => ?_,
    fun hshifting hverifying => ?_, fun hrun hengaged => ?_, fun hrun hnot => ?_⟩
  · rcases hnot with hother | hidle
    · exact channelFall_of_other hother
    · exact channelFall_of_inactive hidle t
  · exact channelFall_of_released hpermit hreleased
  · exact channelFall_of_held hpermit hengaged hpolicy
  · exact channelLapse_of_way hway
  · exact channelLapse_of_other hshifting hverifying
  · refine (exec_takeEvent_of_running (d := .runDryRequest c) hrun nofun).trans (congrArg Host.Outcome.next ?_)
    exact if_pos hengaged
  · refine (exec_takeEvent_of_running (d := .runDryRequest c) hrun nofun).trans (congrArg Host.Outcome.next ?_)
    exact if_neg hnot

/-! Timers. -/

/-- The settle timer of a SHIFTING channel (R102). -/
theorem exec_settleExpiry_of_timer {s : State} {c : Channel} {t : Nat} (hrun : Running s) (hstate : (s.chan c).state = .shifting)
    (htimer : (s.chan c).timer = some (.settle, t)) :
    exec (.settleExpiry c) s =
      .next (if checksHold s c then enterEngaged (s.clock t) c else enterVerifying (s.clock t) c) := by
  have hend := inRun_of_running hrun fun s => settleEnd s c
  simp only [settleEnd, hstate, htimer] at hend
  exact congrArg Host.Outcome.next hend

/-- The verify timer of a VERIFYING channel (R106). -/
theorem exec_verifyExpiry_of_timer {s : State} {c : Channel} {t : Nat} (hrun : Running s) (hstate : (s.chan c).state = .verifying)
    (htimer : (s.chan c).timer = some (.verify, t)) :
    exec (.verifyExpiry c) s = .next (enterFaulted (s.clock t) c .verifyTimeout .engageFailed) := by
  have hend := inRun_of_running hrun fun s => verifyEnd s c
  simp only [verifyEnd, hstate, htimer] at hend
  exact congrArg Host.Outcome.next hend

/-- The release timer of a RELEASING channel (R109). -/
theorem exec_releaseExpiry_of_timer {s : State} {c : Channel} {t : Nat} (hrun : Running s)
    (hstate : (s.chan c).state = .releasing) (htimer : (s.chan c).timer = some (.release, t)) :
    exec (.releaseExpiry c) s =
      .next (if clearPasses s c then enterDisengaged (s.clock t) c
        else enterFaulted (s.clock t) c .releaseCheck .releaseFailed) := by
  have hend := inRun_of_running hrun fun s => releaseEnd s c
  simp only [releaseEnd, hstate, htimer] at hend
  exact congrArg Host.Outcome.next hend

/-- An advance of the clock leaves every channel. -/
theorem clock_chan (s : State) (t : Nat) (c : Channel) : (s.clock t).chan c = s.chan c := by
  cases c <;> rfl

/-- Without a confirm switch there is no confirm check (R103). -/
theorem confirmHolds_of_none {d : DriveCfg} (h : d.confirm = none) (s : State) : confirmHolds s d = true := by
  rw [confirmHolds, h]

/-- The confirm check asks for a FRESH switch at the engaged level (R103). -/
theorem confirmHolds_iff_of_some {d : DriveCfg} {i : Fin 32} (h : d.confirm = some i) (s : State) :
    confirmHolds s d = true ↔ (s.slot i).fresh = .fresh ∧ (s.slot i).value.toNat = d.level := by
  rw [confirmHolds, h]
  simp

/-- Settles O45: each timer by its channel's state, its end by the checks. -/
theorem driveTimersExpire : Obligations.DriveTimersExpire := by
  intro s c t hrun d u free
  have hfree : clearPasses s c = true ↔ free := clearPasses_iff s c
  have hchan : u.chan c = s.chan c := clock_chan s t c
  refine ⟨fun hstate htimer => ⟨fun hconfirms hratio => ?_, fun hfails => ?_⟩, fun hstate htimer => ?_,
    fun hstate htimer => ⟨fun hpasses => ?_, fun hbarred => ?_⟩, fun hnone => confirmHolds_of_none hnone s,
    fun i hsome => confirmHolds_iff_of_some hsome s⟩
  · have hholds : checksHold s c = true := by
      rw [checksHold, Bool.and_eq_true]
      exact ⟨hconfirms, hratio⟩
    rw [exec_settleExpiry_of_timer hrun hstate htimer, if_pos hholds, ← hchan]
    rfl
  · have hholds : ¬checksHold s c = true := by
      rw [checksHold, Bool.and_eq_true]
      rintro ⟨hconfirms, hratio⟩
      rcases hfails with hfail | hfail
      · exact Bool.false_ne_true (hfail.symm.trans hconfirms)
      · exact Bool.false_ne_true (hfail.symm.trans hratio)
    rw [exec_settleExpiry_of_timer hrun hstate htimer, if_neg hholds, ← hchan]
    rfl
  · rw [exec_verifyExpiry_of_timer hrun hstate htimer, ← hchan]
    rfl
  · rw [exec_releaseExpiry_of_timer hrun hstate htimer, if_pos (hfree.2 hpasses), ← hchan]
    rfl
  · rw [exec_releaseExpiry_of_timer hrun hstate htimer, if_neg (mt hfree.1 hbarred), ← hchan]
    rfl

end Sys2Proof.Proofs
end

section
/-! Level samples and senders, level source and band (R119, R122 to R132). -/

namespace Sys2Proof.Proofs

open Sys2Proof Sys2Proof.Machine Sys2Proof.Safety

/-! Samples. -/

/-- The median of three is one of them (R122). -/
theorem median_cases (a b c : Nat) : median a b c = a ∨ median a b c = b ∨ median a b c = c := by
  unfold median; omega

/-- Two of three samples are at or below the median, and two at or above it (R122). -/
theorem median_splits (a b c : Nat) :
    let m := median a b c
    ((a ≤ m ∧ b ≤ m) ∨ (a ≤ m ∧ c ≤ m) ∨ (b ≤ m ∧ c ≤ m)) ∧ ((m ≤ a ∧ m ≤ b) ∨ (m ≤ a ∧ m ≤ c) ∨ (m ≤ b ∧ m ≤ c)) := by
  intro m
  simp only [m, median]
  omega

/-- Two of three have a property that some two of them have. -/
theorem two_le_countP {α : Type} {p : α → Bool} {a b c : α}
    (h : (p a = true ∧ p b = true) ∨ (p a = true ∧ p c = true) ∨ (p b = true ∧ p c = true)) : 2 ≤ [a, b, c].countP p := by
  rcases h with ⟨h, h'⟩ | ⟨h, h'⟩ | ⟨h, h'⟩ <;> simp [List.countP_cons, h, h']

/-- The median of three samples is a sample. -/
theorem ofNat_median (a b c : Raw) : BitVec.ofNat 16 (median a.toNat b.toNat c.toNat) ∈ [a, b, c] ∧
    (BitVec.ofNat 16 (median a.toNat b.toNat c.toNat)).toNat = median a.toNat b.toNat c.toNat := by
  rcases median_cases a.toNat b.toNat c.toNat with h | h | h <;> rw [h, BitVec.ofNat_toNat, BitVec.setWidth_eq] <;> simp

/-- A sample always gives a filtered level (R122). -/
theorem filtered_pushSample (w : List Raw) (v : Raw) : ∃ l, filtered (pushSample w v) = some l := by
  unfold filtered
  split
  case h_1 => exact ⟨_, rfl⟩
  case h_2 =>
    rw [pushSample, List.getLast?_concat]
    exact ⟨v, rfl⟩

/-- A sample of the window r.window, whose filtered level is l (R122). -/
theorem sample_eq {r : TankRec} {v l : Raw} (h : filtered (pushSample r.window v) = some l) (c : TankCfg) (filling : Bool) :
    sample c filling r v =
      judge c filling (decide (r.sender = .good) && r.window.isEmpty) { r with window := pushSample r.window v } l := by
  simp only [sample, h]

/-- Filtered level and estimate agree within the limit (R123). -/
theorem agrees_iff (r : TankRec) (limit : Nat) (l : Raw) : r.agrees limit l = true ↔
    l.toNat ≤ r.base.toNat - r.drawn + limit ∧ r.base.toNat - r.drawn ≤ l.toNat + limit := by
  rw [TankRec.agrees, Bool.and_eq_true, decide_eq_true_eq, decide_eq_true_eq]
  rfl

/-- A sender that is not FAILED takes the first sample of a record, and those of a fill, as they are (R127). -/
theorem judge_of_resync {r : TankRec} (hsender : r.sender ≠ .failed) {filling first : Bool} (h : (first || filling) = true)
    (c : TankCfg) (l : Raw) : judge c filling first r l = r.resync l := by
  rw [judge, if_neg hsender, if_pos h]

/-- The other samples of such a sender are compared (R124, R125). -/
theorem judge_of_compared {r : TankRec} (hsender : r.sender ≠ .failed) (c : TankCfg) (l : Raw) :
    judge c false false r l = judgeTrusted r (r.agrees c.limit l) l := by
  rw [judge, if_neg hsender]
  exact if_neg Bool.false_ne_true

/-- A compared sample that agrees (R124). -/
theorem judgeTrusted_of_agree (r : TankRec) (l : Raw) :
    judgeTrusted r true l = { r.resync l with sender := .good, strikes := 0 } := rfl

/-- A compared sample that does not agree, of a GOOD sender (R124). -/
theorem judgeTrusted_of_good {r : TankRec} (h : r.sender = .good) (l : Raw) :
    judgeTrusted r false l = { r with sender := .suspect, strikes := 1 } := by
  simp [judgeTrusted, h]

/-- A compared sample that does not agree, of a SUSPECT sender (R125). -/
theorem judgeTrusted_of_suspect {r : TankRec} (h : r.sender = .suspect) (l : Raw) :
    judgeTrusted r false l =
      if 2 ≤ r.strikes then { r with sender := .failed, strikes := 3, agree := 0 }
      else { r with sender := .suspect, strikes := r.strikes + 1 } := by
  simp [judgeTrusted, h]

/-- A FAILED sender, by its agree count (R126). -/
theorem judge_of_failed {r : TankRec} (hsender : r.sender = .failed) (c : TankCfg) (filling first : Bool) (l : Raw) :
    judge c filling first r l = judgeFailed c filling r l :=
  if_pos hsender

/-- Without flow input every sample counts (R126). -/
theorem judgeFailed_of_no_flow {c : TankCfg} (h : c.flow = none) (filling : Bool) (r : TankRec) (l : Raw) :
    judgeFailed c filling r l = recoverAt r (r.agree + 1) l :=
  if_pos h

/-- With a flow input a compared sample counts where it agrees (R126). -/
theorem judgeFailed_of_flow {c : TankCfg} (h : c.flow ≠ none) (r : TankRec) (l : Raw) :
    judgeFailed c false r l = recoverAt r (if r.agrees c.limit l then r.agree + 1 else 0) l := by
  rw [judgeFailed, if_neg h]
  exact if_neg Bool.false_ne_true

/-- Below 3 agreeing samples the sender stays FAILED (R126). -/
theorem recoverAt_of_lt {n : Nat} (h : n < 3) (r : TankRec) (l : Raw) : recoverAt r n l = { r with agree := n } :=
  if_neg (Nat.not_le.2 h)

/-- At the third it is GOOD again, with a resync (R126). -/
theorem recoverAt_three (r : TankRec) (l : Raw) :
    recoverAt r 3 l = { r.resync l with sender := .good, strikes := 0, agree := 0 } :=
  if_pos (Nat.le_refl 3)

/-- Settles O46: the window's median, then the sender's state and the comparison. -/
theorem levelSamplesJudgeTheSender : Obligations.LevelSamplesJudgeTheSender := by
  refine ⟨fun a b c => ⟨rfl, rfl, rfl, BitVec.ofNat 16 (median a.toNat b.toNat c.toNat), rfl, (ofNat_median a b c).1, ?_, ?_⟩,
    fun c filling r v hlen => ?_⟩
  · refine two_le_countP ?_
    simp only [(ofNat_median a b c).2, decide_eq_true_eq]
    exact (median_splits a.toNat b.toNat c.toNat).1
  · refine two_le_countP ?_
    simp only [(ofNat_median a b c).2, decide_eq_true_eq]
    exact (median_splits a.toNat b.toNat c.toNat).2
  · intro w est
    have hw : pushSample r.window v = w := by
      by_cases hfull : r.window.length < 3
      · have hpush : ¬3 ≤ r.window.length := Nat.not_le.2 hfull
        rw [pushSample, if_neg hpush]
        exact (if_pos hfull).symm
      · rw [pushSample, if_pos (Nat.not_lt.1 hfull)]
        exact (if_neg hfull).symm
    obtain ⟨l, hl⟩ := filtered_pushSample r.window v
    have hsample := sample_eq hl c filling
    rw [hw] at hl hsample
    refine ⟨l, hl, ?_⟩
    intro agrees out synced
    have hagrees : ({ r with window := w } : TankRec).agrees c.limit l = true ↔ agrees := agrees_iff { r with window := w } c.limit l
    have hout : out = judge c filling (decide (r.sender = .good) && r.window.isEmpty) { r with window := w } l := hsample
    have hcompared (hsender : r.sender ≠ .failed) (hdry : filling = false) (hlater : r.sender = .suspect ∨ r.window ≠ []) :
        out = judgeTrusted { r with window := w } (({ r with window := w } : TankRec).agrees c.limit l) l := by
      have hfirst : (decide (r.sender = .good) && r.window.isEmpty) = false := by
        rcases hlater with hsuspect | hwindow
        · rw [hsuspect]; rfl
        · rw [List.isEmpty_eq_false_iff.2 hwindow, Bool.and_false]
      rw [hout, hfirst, hdry]
      exact judge_of_compared (r := { r with window := w }) hsender c l
    refine ⟨fun hsender hresync => ?_, fun hsender hdry hlater hagree => ?_, fun hgood hdry hwindow hno => ?_,
      fun hsuspect hdry hno hstrikes => ?_, fun hsuspect hdry hno hstrikes => ?_, fun hfailed hflow hdry hno => ?_,
      fun hfailed hcounts hbelow => ?_, fun hfailed hcounts htwo => ?_⟩
    · have hfirst : ((decide (r.sender = .good) && r.window.isEmpty) || filling) = true := by
        rcases hresync with hfilling | ⟨hgood, hempty⟩
        · rw [hfilling, Bool.or_true]
        · rw [hgood, hempty]; rfl
      rw [hout]
      exact judge_of_resync (r := { r with window := w }) hsender hfirst c l
    · rw [hcompared hsender hdry hlater, hagrees.2 hagree]
      exact judgeTrusted_of_agree _ l
    · have hsender : r.sender ≠ .failed := by rw [hgood]; decide
      rw [hcompared hsender hdry (.inr hwindow), Bool.eq_false_iff.2 (mt hagrees.1 hno)]
      exact judgeTrusted_of_good (r := { r with window := w }) hgood l
    · have hsender : r.sender ≠ .failed := by rw [hsuspect]; decide
      rw [hcompared hsender hdry (.inl hsuspect), Bool.eq_false_iff.2 (mt hagrees.1 hno)]
      refine (judgeTrusted_of_suspect (r := { r with window := w }) hsuspect l).trans ((if_neg (Nat.not_le.2 hstrikes)).trans ?_)
      rw [← hsuspect]
    · have hsender : r.sender ≠ .failed := by rw [hsuspect]; decide
      rw [hcompared hsender hdry (.inl hsuspect), Bool.eq_false_iff.2 (mt hagrees.1 hno)]
      exact (judgeTrusted_of_suspect (r := { r with window := w }) hsuspect l).trans (if_pos hstrikes.ge)
    · have hrecover : out = recoverAt { r with window := w } 0 l := by
        rw [hout, hdry, judge_of_failed (r := { r with window := w }) hfailed, judgeFailed_of_flow hflow, if_neg (mt hagrees.1 hno)]
      rw [hrecover, recoverAt_of_lt (Nat.zero_lt_succ 2)]
    all_goals
      have hrecover : out = recoverAt { r with window := w } (r.agree + 1) l := by
        by_cases hflow : c.flow = none
        · rw [hout, judge_of_failed (r := { r with window := w }) hfailed, judgeFailed_of_no_flow hflow]
        · obtain ⟨hdry, hagree⟩ := hcounts.resolve_left hflow
          rw [hout, hdry, judge_of_failed (r := { r with window := w }) hfailed, judgeFailed_of_flow hflow, if_pos (hagrees.2 hagree)]
    · rw [hrecover, recoverAt_of_lt (Nat.succ_lt_succ hbelow)]
    · rw [hrecover, htwo, recoverAt_three]
      rfl

/-! Source, level and band. -/

theorem sourceOf_of_no_service (c : TankCfg) (r : TankRec) : sourceOf false c r = .none := rfl

theorem sourceOf_of_trusted {r : TankRec} (h : r.sender ≠ .failed) (c : TankCfg) : sourceOf true c r = .sender :=
  if_neg h

theorem sourceOf_of_failed {r : TankRec} (h : r.sender = .failed) (c : TankCfg) :
    sourceOf true c r = if c.flow = none then .none else .estimate :=
  if_pos h

/-- The level in use is that of the source (R130). -/
theorem settleTank_of_source {t : Tables} {k : Tank} {r : TankRec} {src : LevelSource}
    (h : sourceOf (t.inService k) (t.tank k) r = src) :
    (settleTank t k r).source = src ∧ (settleTank t k r).level = levelOf src r := by
  subst h
  exact ⟨rfl, rfl⟩

/-- The plain band by its thresholds (R132). -/
theorem plainBand_cases (c : TankCfg) (n : Nat) (hlow : c.lowAt < c.normalAt) (hnormal : c.normalAt < c.fullAt) :
    (n < c.lowAt → plainBand c n = .empty) ∧ (c.lowAt ≤ n → n < c.normalAt → plainBand c n = .low) ∧
      (c.normalAt ≤ n → n < c.fullAt → plainBand c n = .normal) ∧ (c.fullAt ≤ n → plainBand c n = .full) := by
  unfold plainBand
  refine ⟨fun h => if_pos h, fun h h' => ?_, fun h h' => ?_, fun h => ?_⟩
  · rw [if_neg (by omega), if_pos h']
  · rw [if_neg (by omega), if_neg (by omega), if_pos h']
  · rw [if_neg (by omega), if_neg (by omega), if_neg (by omega)]

/-- The lower threshold of a band (R132). -/
theorem lowerOf_eq (c : TankCfg) (b : Band) : lowerOf c b =
    if b = .low then c.lowAt else if b = .normal then c.normalAt else if b = .full then c.fullAt else 0 := by
  cases b <;> rfl

/-- From UNKNOWN, and on a fall, the band is taken plainly (R132). -/
theorem bandOf_of_plain {c : TankCfg} {b : Band} {l : Raw} (h : b = .unknown ∨ l.toNat < lowerOf c b) :
    bandOf c b (some l) = plainBand c l.toNat := by
  rw [bandOf]
  rcases h with h | h
  · exact if_pos h
  · by_cases hunknown : b = .unknown
    · exact if_pos hunknown
    · exact (if_neg hunknown).trans (if_pos h)

/-- Otherwise it rises with the hysteresis (R132). -/
theorem bandOf_of_risen {c : TankCfg} {b : Band} {l : Raw} (hknown : b ≠ .unknown) (h : lowerOf c b ≤ l.toNat) :
    bandOf c b (some l) = risenBand c l.toNat b := by
  rw [bandOf, if_neg hknown]
  exact if_neg (Nat.not_lt.2 h)

/-- The highest higher band that the level reaches with the hysteresis (R132). -/
theorem risenBand_cases (c : TankCfg) (n : Nat) (b : Band) (hlow : c.lowAt < c.normalAt) :
    (c.fullAt + c.hyst ≤ n → risenBand c n b = .full) ∧
      (n < c.fullAt + c.hyst → b = .full ∨ b = .normal → risenBand c n b = b) ∧
      (n < c.fullAt + c.hyst → c.normalAt + c.hyst ≤ n → b = .empty ∨ b = .low → risenBand c n b = .normal) ∧
      (n < c.fullAt + c.hyst → n < c.normalAt + c.hyst → b = .low → risenBand c n b = .low) ∧
      (n < c.fullAt + c.hyst → n < c.normalAt + c.hyst → c.lowAt + c.hyst ≤ n → b = .empty → risenBand c n b = .low) ∧
      (n < c.fullAt + c.hyst → n < c.lowAt + c.hyst → b = .empty → risenBand c n b = .empty) := by
  unfold risenBand
  refine ⟨fun h => if_pos h, fun h hb => ?_, fun h h' hb => ?_, fun h h' hb => ?_, fun h h' h'' hb => ?_, fun h h' hb => ?_⟩
  · rw [if_neg (Nat.not_le.2 h)]
    rcases hb with rfl | rfl <;> simp
  · rw [if_neg (Nat.not_le.2 h), if_pos ⟨hb, h'⟩]
  · rw [if_neg (Nat.not_le.2 h), if_neg fun hboth => absurd hboth.2 (Nat.not_le.2 h'), hb]
    rfl
  · rw [if_neg (Nat.not_le.2 h), if_neg fun hboth => absurd hboth.2 (Nat.not_le.2 h'), if_pos ⟨hb, h''⟩]
  · have hnormal : ¬c.normalAt + c.hyst ≤ n := by omega
    rw [if_neg (Nat.not_le.2 h), if_neg fun hboth => hnormal hboth.2, if_neg fun hboth => absurd hboth.2 (Nat.not_le.2 h'), hb]

/-- Settles O47: source and level by service and sender, the band plainly or with its hysteresis. -/
theorem bandsFollowTheLevel : Obligations.BandsFollowTheLevel := by
  refine ⟨fun t k r => ?_, fun c b l hlow hnormal => ?_⟩
  · intro c out
    refine ⟨fun hservice => ?_, fun hservice hsender => ?_, fun hservice hsender hflow => ?_, fun hservice hsender hflow => ?_,
      rfl, fun hsource hlevel => if_pos ⟨hsource, hlevel⟩, fun hchange => if_neg hchange⟩
    · exact settleTank_of_source (by rw [hservice, sourceOf_of_no_service])
    · exact settleTank_of_source (by rw [hservice, sourceOf_of_trusted hsender])
    · exact settleTank_of_source (by rw [hservice, sourceOf_of_failed hsender]; exact if_neg hflow)
    · exact settleTank_of_source (by rw [hservice, sourceOf_of_failed hsender]; exact if_pos hflow)
  · intro n lower plainly
    have hlower : lowerOf c b = lower b := lowerOf_eq c b
    refine ⟨rfl, fun hplain => ?_, fun hknown hreached => ?_⟩
    · rw [bandOf_of_plain (hlower ▸ hplain)]
      exact plainBand_cases c n hlow hnormal
    · obtain ⟨hfull, hstay, hrise, hkeepLow, hriseLow, hkeepEmpty⟩ := risenBand_cases c n b hlow
      rw [bandOf_of_risen hknown (hlower ▸ hreached)]
      refine ⟨hfull, hstay, hrise, fun hbelow hb => hkeepLow ?_ hbelow hb, fun hbelow habove hb => hriseLow ?_ hbelow habove hb,
        fun hbelow hb => hkeepEmpty ?_ hbelow hb⟩
      all_goals omega

end Sys2Proof.Proofs
end

section
/-! The takings of TNK: slot events, their end, volume units, drive states and run-dry (R129 to R144). -/

namespace Sys2Proof.Proofs

open Sys2Proof Sys2Proof.Machine Sys2Proof.Safety

/-! Slot events at the tanks. -/

/-- A tank out of service, and one whose LEVEL slot it is not, takes nothing of a slot event (R120, R122). -/
theorem tankSlot_of_unreached {t : Tables} {e : SlotEvent} {k : Tank}
    (h : t.inService k = false ∨ t.role (tankRole k) ≠ some e.slot) (n : TnkRec) : tankSlot t e n k = n := by
  refine if_neg ?_
  rw [Bool.and_eq_true, bound_iff]
  rintro ⟨hservice, hrole⟩
  exact h.elim (fun hno => Bool.false_ne_true (hno.symm.trans hservice)) fun hno => hno hrole

/-- A tank in service is reached by the events of its LEVEL slot (R120, R122). -/
theorem tank_reached {t : Tables} {i : Fin 32} {k : Tank} (hservice : t.inService k = true) (hrole : t.role (tankRole k) = some i) :
    (t.inService k && t.bound (tankRole k) i) = true := by
  rw [Bool.and_eq_true, bound_iff]
  exact ⟨hservice, hrole⟩

/-- A written level is a sample (R122). -/
theorem tankSlot_of_written {t : Tables} {i : Fin 32} {k : Tank} (hservice : t.inService k = true)
    (hrole : t.role (tankRole k) = some i) (v old : Raw) (fr : Freshness) (w : Writer) (n : TnkRec) :
    tankSlot t (.written i v old fr w) n k =
      n.setTank k (settleTank t k (sample (t.tank k) (decide (k = .water) && n.fillOpen) (n.tank k) v)) :=
  if_pos (tank_reached hservice hrole)

/-- A stale level fails the sender (R128). -/
theorem tankSlot_of_stale {t : Tables} {i : Fin 32} {k : Tank} (hservice : t.inService k = true)
    (hrole : t.role (tankRole k) = some i) (v : Raw) (n : TnkRec) :
    tankSlot t (.stale i v) n k = n.setTank k (settleTank t k (levelStale (n.tank k))) :=
  if_pos (tank_reached hservice hrole)

/-- The supply goes by the events of INTAKE_PRESSURE's slot alone (R134). -/
theorem supplyAfter_of_unbound {t : Tables} {e : SlotEvent} (h : t.role .intakePressure ≠ some e.slot) (before : Supply) :
    supplyAfter t e before = before :=
  if_neg (mt (bound_iff ..).1 h)

/-- A stale pressure is the tank's supply (R134). -/
theorem supplyAfter_of_stale {t : Tables} {i : Fin 32} (h : t.role .intakePressure = some i) (v : Raw) (before : Supply) :
    supplyAfter t (.stale i v) before = .tank := by
  refine (if_pos ((bound_iff ..).2 h)).trans ?_
  cases before <;> rfl

/-- A written pressure, on the tank and on the hydrant (R134). -/
theorem supplyAfter_of_written {t : Tables} {i : Fin 32} (h : t.role .intakePressure = some i) (v old : Raw) (fr : Freshness)
    (w : Writer) :
    supplyAfter t (.written i v old fr w) .tank = (if t.param 12 ≤ v.toNat then .hydrant else .tank) ∧
      supplyAfter t (.written i v old fr w) .hydrant = if v.toNat < t.param 13 then .tank else .hydrant :=
  ⟨if_pos ((bound_iff ..).2 h), if_pos ((bound_iff ..).2 h)⟩

/-- The tank valve goes by the edges of REQ_TANK_VALVE's slot alone (R136). -/
theorem tankValveEvent_of_unbound {t : Tables} {e : SlotEvent} (h : t.role .reqTankValve ≠ some e.slot) (n : TnkRec) :
    tankValveEvent t e n = n :=
  if_neg (mt (bound_iff ..).1 h)

theorem tankValveEvent_of_no_edge {e : SlotEvent} (h : requestEdge e = none) (t : Tables) (n : TnkRec) :
    tankValveEvent t e n = n := by
  rw [tankValveEvent, h]
  exact ite_self _

theorem tankValveEvent_of_edge {t : Tables} {e : SlotEvent} (h : t.role .reqTankValve = some e.slot) {b : Bool}
    (hedge : requestEdge e = some b) (n : TnkRec) : tankValveEvent t e n = { n with tankOpen := b } := by
  rw [tankValveEvent, hedge]
  exact if_pos ((bound_iff ..).2 h)

/-- The fill valve goes by the edges of REQ_FILL's slot alone (R138). -/
theorem fillEvent_of_unbound {t : Tables} {e : SlotEvent} (h : t.role .reqFill ≠ some e.slot) (n : TnkRec) :
    fillEvent t e n = (n, false) :=
  if_neg (mt (bound_iff ..).1 h)

theorem fillEvent_of_no_edge {e : SlotEvent} (h : requestEdge e = none) (t : Tables) (n : TnkRec) :
    fillEvent t e n = (n, false) := by
  rw [fillEvent, h]
  exact ite_self _

theorem fillEvent_of_rise {t : Tables} {e : SlotEvent} (h : t.role .reqFill = some e.slot)
    (hedge : requestEdge e = some true) (n : TnkRec) : fillEvent t e n = fillRequest n := by
  rw [fillEvent, hedge]
  exact if_pos ((bound_iff ..).2 h)

theorem fillEvent_of_fall {t : Tables} {e : SlotEvent} (h : t.role .reqFill = some e.slot)
    (hedge : requestEdge e = some false) (n : TnkRec) : fillEvent t e n = ({ n with fillOpen := false }, false) := by
  rw [fillEvent, hedge]
  exact if_pos ((bound_iff ..).2 h)

/-- An edge from 0 is a rise, one to 0 a fall (R97, R136, R138). -/
theorem requestEdge_of_rise {i : Fin 32} {v before : Raw} (hbefore : before = 0) (hv : v ≠ 0) (fr : Freshness) (w : Writer) :
    requestEdge (.written i v before fr w) = some true :=
  if_pos ⟨hbefore, hv⟩

theorem requestEdge_of_fall {i : Fin 32} {v before : Raw} (hbefore : before ≠ 0) (hv : v = 0) (fr : Freshness) (w : Writer) :
    requestEdge (.written i v before fr w) = some false :=
  (if_neg fun hrise => hbefore hrise.1).trans (if_pos ⟨hbefore, hv⟩)

/-- A fill request, by the conditions of the fill valve (R138). -/
theorem fillRequest_eq (n : TnkRec) : fillRequest n =
    if n.supply = .hydrant ∧ (n.water.band = .empty ∨ n.water.band = .low ∨ n.water.band = .normal) ∧
        n.water.source = .sender then ({ n with fillOpen := true }, false)
    else (n, true) :=
  if_congr (fillAllowed_iff n) rfl rfl

/-- Settles O48: tanks, supply and valves, each for the slot of its role. -/
theorem slotEventsAtTheTanks : Obligations.SlotEventsAtTheTanks := by
  refine ⟨fun s e hrun => exec_takeEvent_of_running (d := .tnkSlotEvent e) hrun nofun, fun t n e => ?_⟩
  refine ⟨fun k hno => tankSlot_of_unreached hno n, fun k hservice hrole => ⟨fun i v he => ?_, fun i v old fr w he => ?_⟩,
    fun before hno => supplyAfter_of_unbound hno before, fun before hrole => ⟨fun i v he => ?_, fun i v old fr w he => ?_⟩,
    fun hno => tankValveEvent_of_unbound hno n, fun hno => fillEvent_of_unbound hno n, fun i v he => ?_,
    fun i v old fr w he => ⟨fun hboth => ?_, fun hrole => ?_, fun hrole => ?_⟩⟩
  · subst he
    exact tankSlot_of_stale hservice hrole v n
  · subst he
    exact tankSlot_of_written hservice hrole v old fr w n
  · subst he
    exact supplyAfter_of_stale hrole v before
  · subst he
    obtain ⟨htank, hhydrant⟩ := supplyAfter_of_written hrole v old fr w
    exact ⟨fun hbefore => hbefore ▸ htank, fun hbefore => hbefore ▸ hhydrant⟩
  · have hedge : requestEdge e = none := by rw [he]; rfl
    exact ⟨tankValveEvent_of_no_edge hedge t n, fillEvent_of_no_edge hedge t n⟩
  · have hedge : requestEdge e = none := by rw [he]; exact requestEdge_eq_none hboth
    exact ⟨tankValveEvent_of_no_edge hedge t n, fillEvent_of_no_edge hedge t n⟩
  · subst he
    exact ⟨fun hold hv => tankValveEvent_of_edge hrole (requestEdge_of_rise hold hv fr w) n,
      fun hold hv => tankValveEvent_of_edge hrole (requestEdge_of_fall hold hv fr w) n⟩
  · subst he
    refine ⟨fun hold hv => ?_, fun hold hv => fillEvent_of_fall hrole (requestEdge_of_fall hold hv fr w) n⟩
    rw [fillEvent_of_rise hrole (requestEdge_of_rise hold hv fr w), fillRequest_eq]

/-! The end of a taking. -/

theorem lineOn_iff (st : DriveState) : lineOn st = true ↔ st = .shifting ∨ st = .verifying ∨ st = .engaged := by
  rw [lineOn_eq, decide_eq_true_eq]

/-- What is made of the members with a property, member by member. -/
theorem map_filter_eq_flatMap {α β : Type} (p : α → Bool) (f : α → β) (l : List α) :
    (l.filter p).map f = l.flatMap fun x => if p x = true then [f x] else [] := by
  induction l with
  | nil => rfl
  | cons x l ih =>
    rw [List.flatMap_cons, ← ih]
    cases hx : p x with
    | true => rw [List.filter_cons_of_pos hx]; rfl
    | false => rw [List.filter_cons_of_neg (Bool.eq_false_iff.1 hx)]; rfl

/-- One raise for each tank whose sender became FAILED (R131). -/
theorem failedRaises_eq (s : State) (before after : TnkRec) : failedRaises s before after =
    [Tank.water, .foamA, .foamB].flatMap fun k =>
      if (before.tank k).sender ≠ .failed ∧ (after.tank k).sender = .failed then
        [.exceptionRaise { cls := .senderFailed, mode := s.ilk.mode, tank := some k }] else [] := by
  have hfailed (k : Tank) : ((before.tank k).sender != .failed && (after.tank k).sender == .failed) = true ↔
      (before.tank k).sender ≠ .failed ∧ (after.tank k).sender = .failed := by
    rw [Bool.and_eq_true, bne_iff_ne, beq_iff_eq]
  rw [failedRaises, map_filter_eq_flatMap]
  exact congrArg (List.flatMap · _) (funext fun k => if_congr (hfailed k) rfl rfl)

/-- What a taking delivers of one tank's band (R133). -/
theorem bandDelivery_eq (before after : TnkRec) (k : Tank) : bandDelivery before after k =
    if (before.tank k).band = (after.tank k).band then []
    else .ilkBandChange k :: if k = .water then [.csuInputDelivery (.waterBand after.water.band)] else [] := by
  unfold bandDelivery
  split
  · rfl
  · split <;> rfl

/-- What a taking delivers of the bands and the supply (R133, R135, R143). -/
theorem tnkDeliveries_eq (before after : TnkRec) : tnkDeliveries before after =
    ([Tank.water, .foamA, .foamB].flatMap fun k =>
      if (before.tank k).band = (after.tank k).band then []
      else .ilkBandChange k :: if k = .water then [.csuInputDelivery (.waterBand after.water.band)] else []) ++
    (if before.supply = after.supply then [] else [.ilkSupplyChange, .csuInputDelivery (.supply after.supply)]) := by
  rw [tnkDeliveries, funext (bandDelivery_eq before after)]
  rfl

/-- The end of a taking changes no tank. -/
theorem endTaking_tank (t : Tables) (now : Nat) (n : TnkRec) (k : Tank) : (endTaking t now n).tank k = n.tank k := by
  cases k <;> rfl

/-- The fill valve stays open only under its conditions (R139). -/
theorem endTaking_fillOpen_iff (t : Tables) (now : Nat) (n : TnkRec) : (endTaking t now n).fillOpen = true ↔
    n.fillOpen = true ∧ n.supply = .hydrant ∧
      (n.water.band = .empty ∨ n.water.band = .low ∨ n.water.band = .normal) ∧ n.water.source = .sender := by
  show (n.fillOpen && fillAllowed n) = true ↔ _
  rw [Bool.and_eq_true, fillAllowed_iff]

/-- The override follows the supply and the two pump drives (R137). -/
theorem endTaking_override_iff (t : Tables) (now : Nat) (n : TnkRec) : (endTaking t now n).override = true ↔
    n.supply = .tank ∧ ((n.heldMain = .shifting ∨ n.heldMain = .verifying ∨ n.heldMain = .engaged) ∨
      (n.heldRoll = .shifting ∨ n.heldRoll = .verifying ∨ n.heldRoll = .engaged)) := by
  show (n.supply == .tank && (lineOn n.heldMain || lineOn n.heldRoll)) = true ↔ _
  rw [Bool.and_eq_true, Bool.or_eq_true, beq_iff_eq, lineOn_iff, lineOn_iff]

/-- The run-dry condition (R141). -/
theorem endTaking_dry_iff (t : Tables) (now : Nat) (n : TnkRec) : (endTaking t now n).dry = true ↔
    n.supply = .tank ∧ n.water.band = .empty ∧ (n.heldMain = .engaged ∨ n.heldRoll = .engaged) := by
  show (n.supply == .tank && n.water.band == .empty && (n.heldMain == .engaged || n.heldRoll == .engaged)) = true ↔ _
  rw [Bool.and_eq_true, Bool.and_eq_true, Bool.or_eq_true, beq_iff_eq, beq_iff_eq, beq_iff_eq, beq_iff_eq, and_assoc]

/-- The run-dry timer follows the condition (R141). -/
theorem endTaking_runDry (t : Tables) (now : Nat) (n : TnkRec) : (endTaking t now n).runDry =
    if (endTaking t now n).dry then (if n.dry then n.runDry else some (now + t.param 21 * 1000)) else none := rfl

/-- Settles O49: steps 4 to 6 field by field, then the raises and deliveries. -/
theorem takingsOfTnkEnd : Obligations.TakingsOfTnkEnd := by
  intro s n refused drives
  refine ⟨endTaking s.active s.now n, failedRaises s s.tnk (endTaking s.active s.now n) ++
      (if refused then [.exceptionRaise (tankRaise s .fillRefused .water)] else []) ++
      tnkDeliveries s.tnk (endTaking s.active s.now n), rfl, rfl, endTaking_fillOpen_iff .., endTaking_override_iff ..,
    endTaking_dry_iff .., fun hdry => ?_, fun hdry hbefore => ?_, fun hdry hbefore => ?_, ?_⟩
  · rw [endTaking_runDry, hdry]
    rfl
  · rw [endTaking_runDry, hdry, hbefore]
    rfl
  · rw [endTaking_runDry, hdry, hbefore]
    rfl
  · rw [failedRaises_eq, tnkDeliveries_eq, ← List.append_assoc]
    simp only [endTaking_tank]
    rfl

/-! The other events. -/

/-- A volume unit at TNK (R129). -/
theorem exec_volumeUnit_of_running {s : State} (hrun : Running s) (k : Tank) :
    exec (.volumeUnit k) s = .next (tnkTake (s.taken (.volumeUnit k)) (tnkUnit s.active s.tnk k) false) :=
  exec_takeEvent_of_running (d := .volumeUnit k) hrun nofun

theorem tnkUnit_of_service {t : Tables} {k : Tank} (h : t.inService k = true) (n : TnkRec) :
    tnkUnit t n k = n.setTank k (settleTank t k (drawUnit (t.tank k) (n.tank k))) :=
  if_pos h

theorem tnkUnit_of_no_service {t : Tables} {k : Tank} (h : t.inService k = false) (n : TnkRec) : tnkUnit t n k = n :=
  if_neg (Bool.eq_false_iff.1 h)

/-- TNK holds the states of MAIN and ROLL (R137). -/
theorem heldAfter_eq (n : TnkRec) (c : Channel) (st : DriveState) : heldAfter n c st =
    { n with heldMain := if c = .main then st else n.heldMain, heldRoll := if c = .roll then st else n.heldRoll } := by
  cases c <;> rfl

/-- The run-dry timer expires (R142). -/
theorem exec_runDryExpiry_of_running {s : State} (hrun : Running s) : exec .runDryExpiry s = .next (dryExpiry s) :=
  congrArg Host.Outcome.next (inRun_of_running hrun _)

/-- Settles O50: units by the service of the tank, drive states by the channel, the expiry by the timer. -/
theorem otherEventsAtTheTanks : Obligations.OtherEventsAtTheTanks := by
  intro s hrun
  refine ⟨fun k hservice => ?_, fun k hservice => ?_, fun c st => ?_, fun hidle => ?_, fun t htimer => ?_⟩
  · rw [exec_volumeUnit_of_running hrun, tnkUnit_of_service hservice]
    rfl
  · rw [exec_volumeUnit_of_running hrun, tnkUnit_of_no_service hservice]
  · refine (exec_takeEvent_of_running (d := .tnkDriveStateChange c st) hrun nofun).trans (congrArg Host.Outcome.next ?_)
    exact congrArg (fun n => tnkTake (s.taken (.tnkDriveStateChange c st)) n false) (heldAfter_eq s.tnk c st)
  · rw [exec_runDryExpiry_of_running hrun, dryExpiry, hidle]
  · rw [exec_runDryExpiry_of_running hrun, dryExpiry, htimer]
    rfl

end Sys2Proof.Proofs
end

section
/-! The events of CSU, and the end of its takings (R148, R151 to R158). -/

namespace Sys2Proof.Proofs

open Sys2Proof Sys2Proof.Machine Sys2Proof.Safety

/-- A target below the applied ceiling is applied at once, with a ceiling fall (R151, R154). -/
theorem csuFinish_of_below {s : State} {c : CsuRec} (h : (targetOf s.active c).toNat < c.applied.toNat) :
    csuFinish s c =
      (s.setCsu { c with target := targetOf s.active c, applied := targetOf s.active c, ramp := none }).post [.ceilingFall] := by
  rw [csuFinish, applyTarget, fallDelivery, if_pos h, if_pos h]

/-- A target that is no lower delivers nothing (R154). -/
theorem csuFinish_of_not_below {s : State} {c : CsuRec} (h : ¬(targetOf s.active c).toNat < c.applied.toNat) :
    csuFinish s c = s.setCsu (if targetOf s.active c = c.applied then { c with target := targetOf s.active c, ramp := none }
      else { c with target := targetOf s.active c, ramp := some (c.ramp.getD (s.now + s.active.param 19)) }) := by
  rw [csuFinish, applyTarget, fallDelivery, if_neg h, if_neg h, post_nil]
  rfl

/-- A ramp step is the sum, held at the target (R152). -/
theorem rampUp_eq {t : Tables} {c : CsuRec} (h : c.applied.toNat ≤ c.target.toNat) :
    rampUp t c = BitVec.ofNat 16 (min (c.applied.toNat + t.param 18) c.target.toNat) := by
  have hstep : t.rampStep = t.param 18 := rfl
  rw [rampUp, hstep]
  by_cases hbelow : c.applied.toNat + t.param 18 < c.target.toNat
  · rw [if_pos hbelow, min_eq_left hbelow.le, BitVec.ofNat_add, BitVec.ofNat_toNat, BitVec.setWidth_eq]
  · rw [if_neg hbelow, if_pos h, min_eq_right (Nat.not_lt.1 hbelow), BitVec.ofNat_toNat, BitVec.setWidth_eq]

/-- A heartbeat in ROAD, with supervision disarmed, does nothing (R156). -/
theorem beat_of_road {c : CsuRec} (hmode : c.mode = .road) (hsup : c.sup = .disarmed) (t : Tables) (now : Nat) :
    beat t now c = c :=
  if_pos ⟨hmode, by rw [hsup]; decide⟩

/-- Any other arms supervision, or keeps it armed (R156). -/
theorem beat_of_armed {c : CsuRec} (h : c.mode ≠ .road ∨ c.sup = .armed) (t : Tables) (now : Nat) :
    beat t now c = { c with sup := .armed, supTimer := some (now + t.param 20) } := by
  refine if_neg ?_
  rintro ⟨hmode, hsup⟩
  exact h.elim (fun hno => hno hmode) hsup

/-- The supervision timer of an ARMED supervision (R157). -/
theorem exec_supervisionTimerExpiry_of_armed {s : State} {t : Nat} (hrun : Running s) (hsup : s.csu.sup = .armed)
    (htimer : s.csu.supTimer = some t) :
    exec .supervisionTimerExpiry s = .next (csuFinish
      ((s.clock t).post [.exceptionRaise { cls := .supervisionLost, mode := s.csu.mode }, .supervisionLapse])
      { s.csu with sup := .lapsed, supTimer := none }) := by
  have hend := inRun_of_running hrun supervisionEnd
  simp only [supervisionEnd, hsup, htimer] at hend
  exact congrArg Host.Outcome.next hend

/-- The ramp timer (R152). -/
theorem exec_rampExpiry_of_timer {s : State} {t : Nat} (hrun : Running s) (htimer : s.csu.ramp = some t) :
    exec .rampExpiry s =
      .next (csuFinish (s.clock t) { s.csu with applied := rampUp s.active s.csu, ramp := none }) := by
  have hend := inRun_of_running hrun rampEnd
  simp only [rampEnd, htimer] at hend
  exact congrArg Host.Outcome.next hend

/-- A held input of CSU; a mode ROAD disarms supervision (R148, R158). -/
theorem exec_csuInputDelivery_of_running {s : State} (hrun : Running s) (d : CsuInput) :
    exec (.csuInputDelivery d) s = .next (csuFinish (s.taken (.csuInputDelivery d)) (heldInput s.csu d)) :=
  exec_takeEvent_of_running (d := .csuInputDelivery d) hrun nofun

theorem exec_heartbeat_of_running {s : State} (hrun : Running s) :
    exec .heartbeat s = .next (csuFinish (s.taken .heartbeat) (beat s.active s.now s.csu)) :=
  exec_takeEvent_of_running (d := .heartbeat) hrun nofun

/-- Settles O52: each event by what it does to CSU's state, the end of a taking by target and applied ceiling. -/
theorem ceilingEvents : Obligations.CeilingEvents := by
  refine ⟨fun s hrun => ⟨fun d => ?_, fun hmode hsup => ?_, fun hbeat => ?_,
    fun t hsup htimer => exec_supervisionTimerExpiry_of_armed hrun hsup htimer, fun t hramp hbelow => ?_⟩, fun s c => ?_⟩
  · refine (exec_csuInputDelivery_of_running hrun d).trans ?_
    cases d with
    | drive c st => cases c <;> rfl
    | mode | supply | waterBand => rfl
  · rw [exec_heartbeat_of_running hrun, beat_of_road hmode hsup]
  · rw [exec_heartbeat_of_running hrun, beat_of_armed hbeat]
  · rw [exec_rampExpiry_of_timer hrun hramp, rampUp_eq hbelow]
  · intro t
    refine ⟨fun hbelow => csuFinish_of_below hbelow, fun hsame => ?_, fun habove => ?_⟩
    · have hnot : ¬(targetOf s.active c).toNat < c.applied.toNat := by
        rw [show targetOf s.active c = c.applied from hsame]
        exact Nat.lt_irrefl _
      rw [csuFinish_of_not_below hnot, if_pos hsame]
    · have hne : targetOf s.active c ≠ c.applied := fun heq => by
        have hlt : c.applied.toNat < (targetOf s.active c).toNat := habove
        rw [heq] at hlt
        exact Nat.lt_irrefl _ hlt
      rw [csuFinish_of_not_below (Nat.not_lt.2 (Nat.le_of_lt habove)), if_neg hne]

end Sys2Proof.Proofs
end

section
/-! Raises at EXC (R163 to R172). -/

namespace Sys2Proof.Proofs

open Sys2Proof Sys2Proof.Machine Sys2Proof.Safety

/-- The numbers of a set's classes ascend. -/
theorem classesIn_pairwise (set : BitVec 18) : (classesIn set).Pairwise (· < ·) := by
  rw [classesIn, List.pairwise_map]
  exact (List.pairwise_lt_range.filter _).imp Nat.succ_lt_succ

/-- A class is listed where its bit is set. -/
theorem mem_classesIn (set : BitVec 18) (n : Nat) :
    n ∈ classesIn set ↔ 1 ≤ n ∧ n ≤ 18 ∧ set.getLsbD (n - 1) = true := by
  rw [classesIn, List.mem_map]
  constructor
  · rintro ⟨i, hi, rfl⟩
    obtain ⟨hlt, hbit⟩ := List.mem_filter.1 hi
    exact ⟨Nat.le_add_left 1 i, List.mem_range.1 hlt, hbit⟩
  · rintro ⟨hpos, hle, hbit⟩
    exact ⟨n - 1, List.mem_filter.2 ⟨List.mem_range.2 (by omega), hbit⟩, Nat.sub_add_cancel hpos⟩

/-- Every class has one of the 18 bits. -/
theorem classNumber_sub_one_lt (c : ExcClass) : classNumber c - 1 < 18 := by
  cases c <;> decide

/-- With an unmasked class flagged the summary is on (R166). -/
theorem summaryOf_or_classBit {mask : BitVec 18} {c : ExcClass} (h : mask.getLsbD (classNumber c - 1) = false)
    (flags : BitVec 18) : summaryOf (flags ||| classBit c) mask = true := by
  rw [summaryOf, bne_iff_ne]
  intro hzero
  have hbit := congrArg (fun v => v.getLsbD (classNumber c - 1)) hzero
  simp only [BitVec.getLsbD_and, BitVec.getLsbD_or, BitVec.getLsbD_not, classBit, BitVec.getLsbD_twoPow, h,
    classNumber_sub_one_lt] at hbit
  simp at hbit

/-- A masked raise sets its flag alone (R163). -/
theorem excTake_of_masked {s : State} {r : Raise} (h : s.active.mask.getLsbD (classNumber r.cls - 1) = true) :
    excTake s r = s.setExc { s.exc with flags := s.exc.flags ||| classBit r.cls } := if_pos h

/-- An unmasked raise marks its class and sends its notice (R163). -/
theorem excTake_of_unmasked {s : State} {r : Raise} (h : s.active.mask.getLsbD (classNumber r.cls - 1) = false) :
    excTake s r = sendNotice (markRaise s r) s.exc.pend r := if_neg (ne_true_of_eq_false h)

/-- Capture holds the first raise, and whether another followed (R170). -/
theorem captureAfter_eq (c : Option Capture) (r : Raise) : captureAfter c r =
    some (match c with
      | none => { raise := r, further := false }
      | some k => { k with further := true }) := by
  cases c <;> rfl

/-- An unmasked raise turns the alarm on (R163, R166). -/
theorem markRaise_of_unmasked {s : State} {r : Raise} (h : s.active.mask.getLsbD (classNumber r.cls - 1) = false) :
    markRaise s r = (s.setExc
      { flags := s.exc.flags ||| classBit r.cls, pend := s.exc.pend ||| classBit r.cls, summary := true,
        capture := some (match s.exc.capture with
          | none => { raise := r, further := false }
          | some k => { k with further := true }) }).setOuts { s.outs with alarm := true } := by
  rw [markRaise, flagsAfter, summaryOf_or_classBit h, captureAfter_eq]
  rfl

/-- A called notice goes to the report port (R171). -/
theorem noticePort_of_called {t : Tables} {pend : BitVec 18} {c : ExcClass}
    (h : ¬(pend.getLsbD (classNumber c - 1) = true ∨ t.param 23 ≠ 1)) : noticePort t pend c = t.reportPort := by
  obtain ⟨hpend, hon⟩ := not_or.1 h
  refine if_pos ?_
  rw [Bool.and_eq_true]
  exact ⟨by rw [hasClass, Bool.eq_false_of_not_eq_true hpend]; rfl, beq_iff_eq.2 (not_not.1 hon)⟩

/-- No notice is called for where the class was pending or notices are off (R171). -/
theorem noticePort_of_quiet {t : Tables} {pend : BitVec 18} {c : ExcClass}
    (h : pend.getLsbD (classNumber c - 1) = true ∨ t.param 23 ≠ 1) : noticePort t pend c = none := by
  refine if_neg fun hcalled => ?_
  obtain ⟨hpend, hon⟩ := (Bool.and_eq_true _ _).mp hcalled
  rcases h with hset | hoff
  · exact absurd hset (by simpa [hasClass] using hpend)
  · exact hoff (beq_iff_eq.1 hon)

/-- A REPORT_PORT of neither port names none. -/
theorem reportPort_of_neither {t : Tables} (h0 : t.param 4 ≠ 0) (h1 : t.param 4 ≠ 1) : t.reportPort = none := by
  unfold Tables.reportPort
  split
  · next h => exact absurd h h0
  · next h => exact absurd h h1
  · rfl

/-- REPORT_PORT 0 is the cab port. -/
theorem reportPort_of_zero {t : Tables} (h : t.param 4 = 0) : t.reportPort = some .cp := by
  simp only [Tables.reportPort, h]

/-- REPORT_PORT 1 is the body port. -/
theorem reportPort_of_one {t : Tables} (h : t.param 4 = 1) : t.reportPort = some .bp := by
  simp only [Tables.reportPort, h]

/-- No notice is sent without a port for it (R171). -/
theorem sendNotice_of_none {s : State} {before : BitVec 18} {r : Raise} (h : noticePort s.active before r.cls = none) :
    sendNotice s before r = s := by
  rw [sendNotice, h]

/-- A notice is queued on its port (R171, R172). -/
theorem sendNotice_of_some {s : State} {before : BitVec 18} {r : Raise} {p : Port}
    (h : noticePort s.active before r.cls = some p) :
    sendNotice s before r = queuePart s p (noticeFrame s.active r s.exc.pend) := by
  rw [sendNotice, h]

/-- Settles O53: a masked raise sets its flag alone; an unmasked one marks its class, and the notice is queued on the
port that `noticePort` names. -/
theorem raisesAreTakenWhole : Obligations.RaisesAreTakenWhole := by
  refine ⟨⟨fun set => ⟨classesIn_pairwise set, mem_classesIn set⟩, rfl, fun t => toNat_mgmtIdent⟩, fun s r hrun => ?_⟩
  have hexec := exec_takeEvent_of_running (d := .exceptionRaise r) hrun nofun
  refine ⟨fun hmasked => hexec.trans (congrArg Host.Outcome.next (excTake_of_masked hmasked)), fun hunmasked => ?_⟩
  have hsent := (hexec.trans (congrArg Host.Outcome.next (excTake_of_unmasked hunmasked))).trans
    (congrArg (fun v => Host.Outcome.next (sendNotice v s.exc.pend r)) (markRaise_of_unmasked hunmasked))
  refine ⟨fun hsilent => hsent.trans (congrArg Host.Outcome.next (sendNotice_of_none ?_)),
    fun hcalled hport => hsent.trans (congrArg Host.Outcome.next (sendNotice_of_some ?_)),
    fun hcalled hport => hsent.trans (congrArg Host.Outcome.next (sendNotice_of_some ?_))⟩
  · by_cases hquiet : s.exc.pend.getLsbD (classNumber r.cls - 1) = true ∨ s.active.param 23 ≠ 1
    · exact noticePort_of_quiet hquiet
    · obtain ⟨h0, h1⟩ := hsilent.resolve_left hquiet
      exact (noticePort_of_called hquiet).trans (reportPort_of_neither h0 h1)
  · exact (noticePort_of_called hcalled).trans (reportPort_of_zero hport)
  · exact (noticePort_of_called hcalled).trans (reportPort_of_one hport)

end Sys2Proof.Proofs
end

section
/-! Resets, the release, and the beginning of START (R194 to R197). -/

namespace Sys2Proof.Proofs

open Sys2Proof Sys2Proof.Machine Sys2Proof.Safety

/-- A vector of equal members. -/
theorem replicate_get {α : Type} {n : Nat} (a : α) (i : Fin n) : (Vector.replicate n a).get i = a :=
  Vector.getElem_replicate ..

/-- A reset leaves every condition UNKNOWN (R81). -/
theorem applyReset_mem (s : State) (k : Fin 24) (j : Fin 4) : ((applyReset s).ilk.mem.get k).get j = .unknown :=
  (congrArg (fun v => v.get j) (replicate_get (Vector.replicate 4 Tri.unknown) k)).trans (replicate_get _ j)

/-- A reset leaves every block at the values of its chapter (R194). -/
theorem resetDone_applyReset (s : State) : ResetDone s (applyReset s) :=
  ⟨rfl, rfl, rfl, rfl, rfl, rfl, rfl, rfl, replicate_get _, replicate_get _, map_get _ _, rfl, rfl, applyReset_mem s,
    ofFn_get _, rfl, rfl, rfl, rfl, rfl, rfl, rfl⟩

/-- The start-up controller's own fields are no part of what a reset settles, save the store and the fallback state. -/
theorem resetDone_setSys {s t : State} (h : ResetDone s t) {r : SysRec} (hstore : r.store = t.sys.store)
    (hfallback : r.fallback = t.sys.fallback) : ResetDone s (t.setSys r) := by
  obtain ⟨houts, hcp, hbp, hfre, hdrv, htnk, hexc, hbox, hslots, hpulses, hswitches, hmode, hstopped, hmem, hterms, hcsu,
    hmgt, hactive, hkeptStore, hkeptFallback, hrest⟩ := h
  exact ⟨houts, hcp, hbp, hfre, hdrv, htnk, hexc, hbox, hslots, hpulses, hswitches, hmode, hstopped, hmem, hterms, hcsu,
    hmgt, hactive, hstore.trans hkeptStore, hfallback.trans hkeptFallback, hrest⟩

/-- Nor is the time at which the ports began to receive. -/
theorem resetDone_listen {s t : State} (h : ResetDone s t) : ResetDone s t.listen := by
  obtain ⟨houts, hcp, hbp, hrest⟩ := h
  exact ⟨houts, congrArg (fun r => { r with since := t.now }) hcp, congrArg (fun r => { r with since := t.now }) hbp, hrest⟩

/-- The release begins START and settles nothing else (R197). -/
theorem resetDone_beginStart {s t : State} (h : ResetDone s t) : ResetDone s (beginStart t) :=
  resetDone_setSys (resetDone_listen h) rfl rfl

/-- Settles O54: each reset is `applyReset` with the start-up controller's fields set, and a release is `beginStart`. -/
theorem resetsAndTheirRelease : Obligations.ResetsAndTheirRelease := by
  intro s
  have hreset := resetDone_applyReset s
  have hmanagement := resetDone_setSys hreset
    (r := { (applyReset s).sys with causes := { s.sys.causes with management := true } }) rfl rfl
  have hpower := resetDone_setSys hreset
    (r := { (applyReset s).sys with powered := true, causes := { powerOn := true, resetLine := s.sys.resetLow } }) rfl rfl
  refine ⟨?_, ⟨_, rfl, resetDone_setSys hreset rfl rfl, rfl, rfl, rfl, rfl, rfl⟩,
    ⟨_, rfl, resetDone_setSys hreset rfl rfl, rfl, rfl, rfl, rfl, rfl⟩,
    ⟨resetDone_beginStart hmanagement, rfl, rfl, ⟨rfl, rfl⟩, rfl, rfl, rfl⟩, fun hlow => ?_, fun hlow hpowered => ?_,
    fun hlow hpowered => ?_⟩
  · by_cases hlow : s.sys.resetLow = true
    · have hheld : exec .powerOn s = .next _ := congrArg Host.Outcome.next (if_pos hlow)
      exact ⟨_, hheld, hpower, rfl, rfl, rfl, fun _ => ⟨rfl, rfl⟩, fun hhigh => absurd hlow (ne_true_of_eq_false hhigh)⟩
    · have hreleased : exec .powerOn s = .next _ := congrArg Host.Outcome.next (if_neg hlow)
      exact ⟨_, hreleased, resetDone_beginStart hpower, rfl, rfl, rfl, fun h => absurd h hlow,
        fun _ => ⟨rfl, rfl, rfl, rfl⟩⟩
  · exact congrArg Host.Outcome.next (if_neg (ne_true_of_eq_false hlow))
  · exact congrArg Host.Outcome.next ((if_pos hlow).trans (if_neg (ne_true_of_eq_false hpowered)))
  · exact congrArg Host.Outcome.next ((if_pos hlow).trans (if_pos hpowered))

end Sys2Proof.Proofs
end

section
/-! The end of START: the fallback configuration, the tables loaded, and each block's beginning of RUN (R197, R198). -/

namespace Sys2Proof.Proofs

open Sys2Proof Sys2Proof.Machine Sys2Proof.Safety

/-! The fallback configuration. -/

/-- A record of zeros is EMPTY. -/
theorem tagOf_replicate_zero {n : Nat} (i : Fin n) : tagOf ((Vector.replicate n (0 : Image20)).get i) = .empty := by
  rw [replicate_get]
  decide

/-- The fallback configuration binds no role (R198). -/
theorem fallback_role (r : Role) : Tables.fallback.role r = none := by
  have hnone : ∀ i : Fin 11, Tables.fallback.roles.get i = 255 := replicate_get 255
  rw [Tables.role, hnone]
  rfl

/-! ILK and CSU at the beginning of RUN. -/

/-- ILK begins RUN: every condition takes its input's result, every term the result of its conditions, and the terms then TRUE
deliver their rises (R81). -/
theorem ilkBegin_settles {w : State} (hlow : ∀ k j : Fin 24, Cond.term j ∈ w.active.conds k → j < k) :
    ∃ ilk, ilkBegin w = { w with ilk := ilk, outbox := w.outbox ++ termRises ilk.terms } ∧
      ilk.mode = w.ilk.mode ∧ ilk.stopped = w.ilk.stopped ∧
      (∀ (k : Fin 24) (j : Fin 4) (c : Cond), (w.active.conds k)[j.val]? = some c →
        (ilk.mem.get k).get j = inputResult w c) ∧
      ∀ k, ilk.terms.get k = termResult { w with ilk := ilk } ilk.terms k := by
  obtain ⟨m, hm⟩ : ∃ m, memMap w (fun c _ => inputResult w c) = m := ⟨_, rfl⟩
  obtain ⟨r, hr⟩ : ∃ r, allResults (w.setIlk { w.ilk with mem := m, terms := resetTerms w.active }) = r := ⟨_, rfl⟩
  have heq := ilkBegin_eq w hm hr
  rw [termDeliveries_of_none _ _ (resetTerms_none w.active)] at heq
  refine ⟨{ w.ilk with mem := m, terms := r }, heq, rfl, rfl, fun k j c hc => ?_, fun k => ?_⟩
  · rw [← hm]
    exact memMap_cond w _ hc
  · have hsettled := allResults_settles (w.setIlk { w.ilk with mem := m, terms := resetTerms w.active }) hlow k
    rw [hr] at hsettled
    exact hsettled.trans (termResult_of_same _ _ r r k rfl rfl fun _ _ => rfl)

/-- CSU's taking at the beginning of RUN delivers at most a ceiling fall; with ROAD held and the applied ceiling at IDLE_CEIL it
delivers none and the target is IDLE_CEIL (R159, R160). -/
theorem csuCommit_settles (v : State) :
    ∃ csu fall, csuCommit v = { v with csu := csu, outbox := v.outbox ++ fall } ∧
      (fall = [] ∨ fall = [.ceilingFall]) ∧
      (v.csu.mode = .road → v.csu.applied = v.active.idleCeil →
        fall = [] ∧ csu = { v.csu with target := v.active.idleCeil, ramp := none }) := by
  have htarget : v.csu.mode = .road → targetOf v.active v.csu = v.active.idleCeil := fun hroad =>
    targetOf_of_idles (by rw [idles, hroad]; simp) _
  by_cases hbelow : (targetOf v.active v.csu).toNat < v.csu.applied.toNat
  · refine ⟨_, _, csuFinish_of_below hbelow, .inr rfl, fun hroad happlied => ?_⟩
    rw [htarget hroad, happlied] at hbelow
    exact absurd hbelow (Nat.lt_irrefl _)
  · have heq := csuFinish_of_not_below hbelow
    refine ⟨_, [], heq.trans (post_nil _).symm, .inl rfl, fun hroad happlied => ⟨rfl, ?_⟩⟩
    rw [htarget hroad, if_pos happlied.symm]
    rfl

/-! The end of START. -/

/-- The tables that the end of START loads (R197, R198). -/
def startTables (s : State) (good : Bool) : Tables := if good then s.sys.store.tables else Tables.fallback

/-- The raise that follows a failed image (R197). -/
def storeFaults (good : Bool) : List Instr :=
  if good then [] else [.exceptionRaise { cls := .storeFault, mode := .road }]

/-- What start-up loads is sound (R189). -/
theorem startTables_sound {s : State} {good : Bool} (h : good = true → s.sys.store.good = true) :
    (startTables s good).sound = true :=
  (congrArg Tables.sound (endStart_active s good)).symm.trans (activeSound_endStart h)

/-- The state in RUN before the takings of ILK and CSU: tables loaded, SIG, TNK and the ceilings begun (R197, R198). -/
def loadedState (s : State) (good : Bool) : State :=
  csuBegin (tnkBegin (sigBegin (loadTables (s.setSys (s.sys.started good)) (startTables s good))))

/-- START ends with the takings of ILK and CSU, and STORE_FAULT where the image failed (R197, R198). -/
theorem endStart_eq (s : State) (good : Bool) :
    endStart s good = (csuCommit (ilkBegin (loadedState s good))).post (storeFaults good) := by
  cases good
  · rfl
  · exact (post_nil _).symm

/-- What the beginning of RUN changes before the takings of ILK and CSU (R197, R198). -/
theorem loadedState_eq (s : State) (good : Bool) : loadedState s good =
    { s with
      sys := s.sys.started good
      active := startTables s good
      mgt := { shadow := startTables s good }
      cp := { s.cp with rate := (startTables s good).param 0 }
      bp := { s.bp with rate := (startTables s good).param 1 }
      sig := (loadedState s good).sig
      tnk := (loadedState s good).tnk
      csu := (loadedState s good).csu } := rfl

/-- Nothing has been delivered before the takings of ILK and CSU. -/
theorem loadedState_outbox (s : State) (good : Bool) : (loadedState s good).outbox = s.outbox := by
  rw [loadedState_eq]

/-- START's end in one equation: what ILK and CSU take and deliver, and STORE_FAULT (R197, R198). -/
theorem endStart_settles {s : State} {good : Bool} (hgood : good = true → s.sys.store.good = true) :
    ∃ ilk csu fall, endStart s good =
        { loadedState s good with
          ilk := ilk, csu := csu, outbox := s.outbox ++ termRises ilk.terms ++ fall ++ storeFaults good } ∧
      (fall = [] ∨ fall = [.ceilingFall]) ∧
      (s.csu.mode = .road → fall = [] ∧
        csu = { s.csu with
          target := (startTables s good).idleCeil, applied := (startTables s good).idleCeil, ramp := none }) ∧
      ilk.mode = s.ilk.mode ∧ ilk.stopped = s.ilk.stopped ∧
      (∀ (k : Fin 24) (j : Fin 4) (c : Cond), ((startTables s good).conds k)[j.val]? = some c →
        (ilk.mem.get k).get j = inputResult (loadedState s good) c) ∧
      ∀ k, ilk.terms.get k = termResult { loadedState s good with ilk := ilk } ilk.terms k := by
  have hlow := conds_lower (startTables s good) (startTables_sound hgood)
  obtain ⟨ilk, hilk, hmode, hstopped, hconds, hterms⟩ := ilkBegin_settles (w := loadedState s good) hlow
  obtain ⟨csu, fall, hcsu, hfall, hroad⟩ := csuCommit_settles (ilkBegin (loadedState s good))
  rw [hilk] at hcsu hroad
  refine ⟨ilk, csu, fall, ?_, hfall, fun h => hroad h rfl, hmode, hstopped, hconds, hterms⟩
  rw [endStart_eq, hilk, hcsu, ← loadedState_outbox s good]
  rfl

/-- Every tank begins RUN with a record started again (R146). -/
theorem loadedState_tank (s : State) (good : Bool) (k : Tank) :
    (loadedState s good).tnk.tank k = { source := if (startTables s good).inService k then .sender else .none } := by
  cases k <;> rfl

/-- The debounce timer of every switch starts (R59). -/
theorem loadedState_switch (s : State) (good : Bool) (sw : Fin 6) :
    ((loadedState s good).sig.switches.get sw).timer = some (s.now + (startTables s good).debounce sw) :=
  congrArg SwitchRec.timer (ofFn_get _ sw)

/-- The window of every pulse input in SPEED starts (R62). -/
theorem loadedState_pulse (s : State) (good : Bool) (pi : Fin 4) :
    ((loadedState s good).sig.pulses.get pi).windowEnd =
      if (startTables s good).pulseMode pi = .speed then some (s.now + (startTables s good).window pi) else none :=
  congrArg PulseRec.windowEnd (ofFn_get _ pi)

/-- The drives at the beginning of RUN are as the reset left them (R81). -/
theorem loadedState_chan (s : State) (good : Bool) (d : Channel) : (loadedState s good).chan d = s.chan d := by
  rw [loadedState_eq]
  cases d <;> rfl

/-- So are the mode and the latch (R81). -/
theorem loadedState_ilk (s : State) (good : Bool) : (loadedState s good).ilk = s.ilk := by
  rw [loadedState_eq]

/-- So is the supply (R146). -/
theorem loadedState_supply (s : State) (good : Bool) : (loadedState s good).tnk.supply = s.tnk.supply := by
  simp only [loadedState, csuBegin, tnkBegin, State.setCsu, State.setTnk]
  rfl

/-- A condition's input at the beginning of RUN: every band is UNKNOWN, the other inputs are as the reset left them (R81). -/
theorem inputResult_loadedState (s : State) (good : Bool) (c : Cond) :
    match c with
    | .signal _ _ _ _ _ => inputResult (loadedState s good) c = .unknown
    | .mode set => inputResult (loadedState s good) c = if set.getLsbD (modeCode s.ilk.mode) then .tt else .ff
    | .drive d set => inputResult (loadedState s good) c = if set.getLsbD (driveCode (s.chan d).state) then .tt else .ff
    | .band _ set => inputResult (loadedState s good) c = if set.getLsbD (bandCode .unknown) then .tt else .unknown
    | .supply v => inputResult (loadedState s good) c = if s.tnk.supply = v then .tt else .ff
    | .term _ => True := by
  cases c with
  | signal _ _ _ _ _ => rfl
  | mode _ => rw [inputResult, loadedState_ilk, Tri.ofBool]
  | drive d _ => rw [inputResult, loadedState_chan, Tri.ofBool]
  | band k _ => simp only [inputResult, loadedState_tank, if_true]
  | supply v =>
    simp only [inputResult, loadedState_supply]
    exact ofBool_beq s.tnk.supply v
  | term _ => trivial

end Sys2Proof.Proofs
end

section
/-! The commands that end START (R197, R198). -/

namespace Sys2Proof.Proofs

open Sys2Proof Sys2Proof.Machine Sys2Proof.Safety

/-- Outside START a store read ends without effect. -/
theorem readComplete_of_not_start {s : State} (h : s.sys.phase ≠ .start) (readGood : Bool) : readComplete s readGood = s := by
  unfold readComplete
  split
  · next hstart _ => exact absurd hstart h
  · rfl

/-- Outside START the store read's time ends without effect. -/
theorem readTimeout_of_not_start {s : State} (h : s.sys.phase ≠ .start) : readTimeout s = s := by
  unfold readTimeout
  split
  · next hstart _ => exact absurd hstart h
  · rfl

/-- The end of the store read ends START (R197). -/
theorem readComplete_of_start {s : State} {since : Nat} (hstart : s.sys.phase = .start) (hread : s.sys.readAt = some since)
    (readGood : Bool) : readComplete s readGood = endStart s (readGood && decide (s.now ≤ since + 40) && s.sys.store.good) := by
  simp only [readComplete, hstart, hread]
  rfl

/-- So does its time, with a failed image (R197). -/
theorem readTimeout_of_start {s : State} {since : Nat} (hstart : s.sys.phase = .start) (hread : s.sys.readAt = some since) :
    readTimeout s = endStart (s.clock (since + 40)) false := by
  simp only [readTimeout, hstart, hread]
  rfl

/-- ILK's part of the beginning of RUN, from what ILK and CSU take there (R81). -/
theorem ilkBeginsRun_of_settled {s t : State} {good : Bool} (hactive : t.active = startTables s good)
    (hmode : t.ilk.mode = s.ilk.mode) (hstopped : t.ilk.stopped = s.ilk.stopped)
    (hconds : ∀ (k : Fin 24) (j : Fin 4) (c : Cond), ((startTables s good).conds k)[j.val]? = some c →
      (t.ilk.mem.get k).get j = inputResult (loadedState s good) c)
    (hterms : ∀ k, t.ilk.terms.get k = termResult t t.ilk.terms k) : IlkBeginsRun s t := by
  refine ⟨hmode, hstopped, fun k j c hc => ?_, hterms⟩
  rw [hactive] at hc
  have hheld := hconds k j c hc
  have hinput := inputResult_loadedState s good c
  cases c with
  | signal _ _ _ _ _ => exact hheld.trans hinput
  | mode _ => exact hheld.trans hinput
  | drive _ _ => exact hheld.trans hinput
  | band _ _ => exact hheld.trans hinput
  | supply _ => exact hheld.trans hinput
  | term _ => trivial

/-- Settles O55: `endStart_settles` gives the state in RUN, for the end of the read and for its time. -/
theorem startUpEnds : Obligations.StartUpEnds := by
  refine ⟨⟨by decide, tagOf_replicate_zero, tagOf_replicate_zero, tagOf_replicate_zero, tagOf_replicate_zero,
    tagOf_replicate_zero, fallback_role, by decide, by decide, by decide, fallback_sound⟩, fun s => ⟨fun readGood hphase =>
      ⟨congrArg Host.Outcome.next (readComplete_of_not_start hphase readGood),
       congrArg Host.Outcome.next (readTimeout_of_not_start hphase)⟩, fun since hstart hread => ?_⟩⟩
  intro ended
  have hended : ∀ (good : Bool) (now : Nat), (good = true → s.sys.store.good = true) →
      ended good now (endStart { s with now := now } good) := fun good now hgood => by
    obtain ⟨ilk, csu, fall, hend, hfall, hroad, hmode, hstopped, hconds, hterms⟩ :=
      endStart_settles (s := { s with now := now }) hgood
    rw [hend, loadedState_eq]
    refine ⟨rfl, rfl, rfl, rfl, rfl, rfl, rfl, rfl, rfl, rfl, rfl, rfl, rfl, rfl, rfl, loadedState_switch _ good,
      loadedState_pulse _ good, ⟨rfl, loadedState_tank _ good⟩,
      ilkBeginsRun_of_settled (good := good) rfl hmode hstopped hconds fun k => ?_, fall, hfall, hroad, rfl⟩
    rw [hterms k, loadedState_eq]
    rfl
  refine ⟨fun readGood => ⟨_, congrArg Host.Outcome.next (readComplete_of_start hstart hread readGood),
    hended _ s.now fun hgood => (Bool.and_eq_true _ _).mp hgood |>.2⟩,
    _, congrArg Host.Outcome.next (readTimeout_of_start hstart hread), hended false _ nofun⟩

end Sys2Proof.Proofs
end

section
/-! A successful COMMIT: the six steps of R192 with the takings between them. -/

namespace Sys2Proof.Proofs

open Sys2Proof Sys2Proof.Machine Sys2Proof.Safety

/-! What the steps and the takings keep. -/

/-- Without an order no delivery is taken between the steps. -/
theorem commitTurn_nil (old : List Instr) (k : Nat) (s : State) : commitTurn [] old k s = s := rfl

/-- What COMMIT settles at the activation: no step and no taking touches it (R191). -/
def commitCore (s : State) : Tables × MgtRec × SysRec × Nat × List Instr := (s.active, s.mgt, s.sys, s.now, s.pending)

theorem commitCore_takeEvent (d : Instr) (s : State) : commitCore (takeEvent d s) = commitCore s := by
  obtain ⟨_, _, _, _, _, _, _, _, _, _, h⟩ := takeEvent_frame d s
  rw [h]
  rfl

theorem commitCore_commitTurn (order : List (List Block)) (old : List Instr) (k : Nat) (s : State) :
    commitCore (commitTurn order old k s) = commitCore s := commitTurn_keeps commitCore commitCore_takeEvent order old k s

/-- EXC's step keeps everything but the exceptions and OUT_ALARM (R168). -/
theorem maskChange_keeps (before : Tables) (s : State) :
    commitCore (maskChange s before.mask) = commitCore s ∧ (maskChange s before.mask).fre = s.fre ∧
      (maskChange s before.mask).tnk = s.tnk ∧ (maskChange s before.mask).drv = s.drv := by
  obtain ⟨_, _, h⟩ := maskChange_frame s before.mask
  rw [h]
  exact ⟨rfl, rfl, rfl, rfl⟩

/-- FRE's step empties FRE's state and keeps the tanks and the drives (R40, R44). -/
theorem freCommit_keeps (s : State) :
    commitCore (freCommit s) = commitCore s ∧ (freCommit s).fre = { } ∧ (freCommit s).tnk = s.tnk ∧ (freCommit s).drv = s.drv := by
  obtain ⟨h, -⟩ := freCommit_step s
  rw [h]
  exact ⟨rfl, rfl, rfl, rfl⟩

/-- SIG's step changes the Signal Table alone (R54, R60, R65). -/
theorem sigCommit_keeps (before : Tables) (s : State) :
    commitCore (sigCommit before s) = commitCore s ∧ (sigCommit before s).fre = s.fre ∧ (sigCommit before s).tnk = s.tnk ∧
      (sigCommit before s).drv = s.drv := by
  obtain ⟨_, _, h⟩ := sigCommit_frame before s
  rw [h]
  exact ⟨rfl, rfl, rfl, rfl⟩

/-- TNK's step changes the tanks and their lines alone (R145). -/
theorem tnkCommit_keeps (before : Tables) (s : State) :
    commitCore (tnkCommit before s) = commitCore s ∧ (tnkCommit before s).fre = s.fre ∧ (tnkCommit before s).drv = s.drv := by
  obtain ⟨h, -⟩ := tnkCommit_step before s
  rw [h]
  exact ⟨rfl, rfl, rfl⟩

/-- ILK's step changes ILK's state alone (R80, R90). -/
theorem ilkCommit_keeps (s : State) : commitCore (ilkCommit s) = commitCore s ∧ (ilkCommit s).fre = s.fre := by
  obtain ⟨_, _, h⟩ := ilkCommit_frame s
  rw [h]
  exact ⟨rfl, rfl⟩

/-- CSU's step changes the ceilings alone (R159). -/
theorem csuCommit_keeps (s : State) : commitCore (csuCommit s) = commitCore s ∧ (csuCommit s).fre = s.fre := ⟨rfl, rfl⟩

/-- The takings leave FRE's state empty after its step (R192). -/
theorem commitTurn_fre_empty (order : List (List Block)) (old : List Instr) (k : Nat) {s : State} (h : s.fre = { }) :
    (commitTurn order old k s).fre = { } :=
  commitTurn_inv (fun u => u.fre = { }) takeEvent_fre_empty order old k s h

/-! The steps together. -/

/-- The steps and the takings keep what COMMIT settled at the activation (R191). -/
theorem commitCore_handCommit (order : List (List Block)) (before : Tables) (s : State) :
    commitCore (handCommit order before s) = commitCore s := by
  simp only [handCommit, commitCore_commitTurn, (csuCommit_keeps _).1, (ilkCommit_keeps _).1, (tnkCommit_keeps _ _).1,
    (sigCommit_keeps _ _).1, (freCommit_keeps _).1, (maskChange_keeps _ _).1]

/-- FRE's state is empty after a COMMIT (R40, R44). -/
theorem handCommit_fre (order : List (List Block)) (before : Tables) (s : State) : (handCommit order before s).fre = { } := by
  have hfre := commitTurn_fre_empty order s.outbox 1
    (freCommit_keeps (commitTurn order s.outbox 0 (maskChange s before.mask))).2.1
  have hsig := commitTurn_fre_empty order s.outbox 2 ((sigCommit_keeps before _).2.1.trans hfre)
  have htnk := commitTurn_fre_empty order s.outbox 3 ((tnkCommit_keeps before _).2.1.trans hsig)
  have hilk := commitTurn_fre_empty order s.outbox 4 ((ilkCommit_keeps _).2.trans htnk)
  exact commitTurn_fre_empty order s.outbox 5 ((csuCommit_keeps _).2.trans hilk)

/-- t is s after steps that leave the drives and the ports and add to what waits. -/
def DeliversOnly (s t : State) : Prop := t.drv = s.drv ∧ t.cp = s.cp ∧ t.bp = s.bp ∧ ∃ new, t.outbox = s.outbox ++ new

theorem DeliversOnly.trans {s t u : State} (h : DeliversOnly s t) (k : DeliversOnly t u) : DeliversOnly s u := by
  obtain ⟨hdrv, hcp, hbp, new, hbox⟩ := h
  obtain ⟨kdrv, kcp, kbp, more, kbox⟩ := k
  exact ⟨kdrv.trans hdrv, kcp.trans hcp, kbp.trans hbp, new ++ more, by rw [kbox, hbox, List.append_assoc]⟩

theorem deliversOnly_sigCommit (before : Tables) (s : State) : DeliversOnly s (sigCommit before s) := by
  obtain ⟨h, -, -, -, -, hbox⟩ := sigCommit_step before s
  refine ⟨?_, ?_, ?_, _, hbox.trans (List.append_assoc ..)⟩
  all_goals rw [h]

theorem deliversOnly_tnkCommit (before : Tables) (s : State) : DeliversOnly s (tnkCommit before s) := by
  obtain ⟨h, -, -, -, -, -, -, -, -, hbox⟩ := tnkCommit_step before s
  refine ⟨?_, ?_, ?_, _, hbox.trans (List.append_assoc ..)⟩
  all_goals rw [h]

theorem deliversOnly_ilkCommit (s : State) : DeliversOnly s (ilkCommit s) := by
  obtain ⟨h, -⟩ := ilkCommit_step s
  rw [h]
  exact ⟨rfl, rfl, rfl, _, rfl⟩

theorem deliversOnly_csuCommit (s : State) : DeliversOnly s (csuCommit s) := by
  obtain ⟨csu, fall, h, -⟩ := csuCommit_settles s
  rw [h]
  exact ⟨rfl, rfl, rfl, fall, rfl⟩

/-- Without an order a COMMIT is its six steps. -/
theorem handCommit_nil (before : Tables) (s : State) : handCommit [] before s =
    csuCommit (ilkCommit (tnkCommit before (sigCommit before (freCommit (maskChange s before.mask))))) := by
  simp only [handCommit, commitTurn_nil]

/-- With no takings between its steps a COMMIT keeps the drives, delivers after what waited, and queues at most notices (R116,
R192). -/
theorem handCommit_of_no_takings (before : Tables) (s : State) :
    (handCommit [] before s).drv = s.drv ∧ (∃ new, (handCommit [] before s).outbox = s.outbox ++ new) ∧
      ∀ p, PortKept (s.port p) ((handCommit [] before s).port p) := by
  have hsteps := (((deliversOnly_sigCommit before (freCommit (maskChange s before.mask))).trans
    (deliversOnly_tnkCommit before _)).trans (deliversOnly_ilkCommit _)).trans (deliversOnly_csuCommit _)
  rw [← handCommit_nil] at hsteps
  obtain ⟨hdrv, hcp, hbp, new, hbox⟩ := hsteps
  obtain ⟨_, _, hexc⟩ := maskChange_frame s before.mask
  obtain ⟨hfre, hkeptCp, hkeptBp, -⟩ := freCommit_step (maskChange s before.mask)
  rw [← hcp, hexc] at hkeptCp
  rw [← hbp, hexc] at hkeptBp
  have hkeptDrv : (handCommit [] before s).drv = s.drv := by rw [hdrv, hfre, hexc]
  have hkeptBox : (handCommit [] before s).outbox = s.outbox ++ new := by rw [hbox, hfre, hexc]
  refine ⟨hkeptDrv, ⟨new, hkeptBox⟩, fun p => ?_⟩
  cases p
  · exact hkeptCp
  · exact hkeptBp

/-! The takings between the steps. -/

/-- A block's taking at its place: its oldest delivery where it works under the new tables, else the oldest of the changes
delivered since the activation (R191, R192). -/
theorem takeBetween_eq {change : Instr → Bool} (hchange : ∀ d, change d = commitChange d) (old : List Instr) (k : Nat) (t : State)
    (b : Block) : takeBetween (readyAfter k) old t b =
      if b = .exc ∨ (k = 4 ∧ b ≠ .csu) ∨ 4 < k then takeOldest t b
      else
        match (old.foldl List.erase t.outbox).find? fun d => receiver d == some b && change d with
        | none => t
        | some d => takeEvent d t := by
  obtain rfl : change = commitChange := funext hchange
  exact if_congr (mem_readyAfter k b) rfl rfl

/-- The takings before the step of ILK leave FRE's state, the Signal Table, the drives and the tanks (R20, R145, R192). -/
theorem commitTurn_keeps_early (order : List (List Block)) (old : List Instr) {k : Nat} (hk : k < 4) (s : State) :
    (commitTurn order old k s).fre = s.fre ∧ (commitTurn order old k s).tnk = s.tnk ∧ (commitTurn order old k s).drv = s.drv ∧
      (commitTurn order old k s).sig = s.sig := by
  obtain ⟨_, _, _, _, _, _, _, h⟩ := commitTurn_frame order old k hk s
  rw [h]
  exact ⟨rfl, rfl, rfl, rfl⟩

/-- What SIG's step hands to TNK's: the tanks and the drives as the COMMIT found them (R192). -/
theorem sigStep_keeps (order : List (List Block)) (old : List Instr) (before : Tables) (s : State) :
    let turn := commitTurn order old
    let w := sigCommit before (turn 1 (freCommit (turn 0 (maskChange s before.mask))))
    (turn 2 w).tnk = s.tnk ∧ (turn 2 w).drv = s.drv := by
  intro turn w
  have hturn := fun (k : Nat) (hk : k < 4) => commitTurn_keeps_early order old hk
  obtain ⟨-, htnk0, hdrv0, -⟩ := hturn 0 (by decide) (maskChange s before.mask)
  obtain ⟨-, htnk1, hdrv1, -⟩ := hturn 1 (by decide) (freCommit (turn 0 (maskChange s before.mask)))
  obtain ⟨-, htnk2, hdrv2, -⟩ := hturn 2 (by decide) w
  obtain ⟨-, -, htnkExc, hdrvExc⟩ := maskChange_keeps before s
  obtain ⟨-, -, htnkFre, hdrvFre⟩ := freCommit_keeps (turn 0 (maskChange s before.mask))
  obtain ⟨-, -, htnkSig, hdrvSig⟩ := sigCommit_keeps before (turn 1 (freCommit (turn 0 (maskChange s before.mask))))
  constructor
  · calc (turn 2 w).tnk = w.tnk := htnk2
      _ = (freCommit (turn 0 (maskChange s before.mask))).tnk := htnkSig.trans htnk1
      _ = (maskChange s before.mask).tnk := htnkFre.trans htnk0
      _ = s.tnk := htnkExc
  · calc (turn 2 w).drv = w.drv := hdrv2
      _ = (freCommit (turn 0 (maskChange s before.mask))).drv := hdrvSig.trans hdrv1
      _ = (maskChange s before.mask).drv := hdrvFre.trans hdrv0
      _ = s.drv := hdrvExc

/-- A COMMIT's six steps, each as its step lemma says, and what the takings between them leave (R192). -/
theorem handCommit_steps (order : List (List Block)) (before : Tables) (s : State) :
    let turn := commitTurn order s.outbox
    ∃ m v w x y z,
      (CommitAtExc before s m ∧ CommitAtFre (turn 0 m) v ∧ CommitAtSig before (turn 1 v) w ∧ CommitAtTnk before (turn 2 w) x ∧
        CommitAtIlk (turn 3 x) y ∧ CommitAtCsu (turn 4 y) z ∧ handCommit order before s = turn 5 z) ∧
      (turn 0 m).fre = s.fre ∧ (turn 2 w).tnk = s.tnk ∧ (turn 2 w).drv = s.drv ∧
      (turn 3 x).tnk = x.tnk ∧ (turn 3 x).drv = x.drv ∧ (turn 3 x).sig = x.sig := by
  intro turn
  obtain ⟨-, hfre, -, -⟩ := maskChange_keeps before s
  obtain ⟨htnk, hdrv⟩ := sigStep_keeps order s.outbox before s
  have hearly := fun (k : Nat) (hk : k < 4) => commitTurn_keeps_early order s.outbox hk
  refine ⟨_, _, _, _, _, _, ⟨maskChange_step before s, freCommit_step _, sigCommit_step before _, tnkCommit_step before _,
    ilkCommit_step _, csuCommit_step _, ?_⟩, ?_, htnk, hdrv, ?_⟩
  · rfl
  · exact (hearly 0 (by decide) _).1.trans hfre
  · exact (hearly 3 (by decide) _).2

/-- The activation in one equation: the shadow set, its records VALID again, is the active set, CLEAN and unmarked, and the
fallback state is clear (R191). -/
theorem activate_eq (s : State) : activate s =
    { s with
      active := s.mgt.shadow.retagged []
      mgt := { s.mgt with
        shadow := s.mgt.shadow.retagged [], roleMarks := Vector.replicate 11 false
        slotMarks := Vector.replicate 32 false, paramMarks := Vector.replicate 24 false, modified := false
        lastCommit := .ok }
      sys := { s.sys with fallback := false } } := by
  rw [activate]
  generalize s.mgt.shadow.retagged [] = t
  rfl

/-- A COMMIT whose records all pass is handed to the blocks (R190, R191). -/
theorem commit_of_passing {s : State} (h : s.mgt.shadow.failing = []) (r : Request) :
    commit r s = reply (handCommit r.order s.active (activate s)) .commit r .ok [] := by
  unfold commit
  split
  · rfl
  · next hcons => exact absurd (h.symm.trans hcons) (List.cons_ne_nil _ _).symm

/-- Settles O17: `handCommit_steps` from the activated state; a taking between the steps is `takeBetween_eq`. -/
theorem commitSucceeds : Obligations.CommitSucceeds := by
  intro r s hmgt hservice hidle hallowed hfailing
  have hexec : exec (.commit r) s = .next (reply (handCommit r.order s.active (activate s)) .commit r .ok []) :=
    (exec_commit_of_allowed hmgt hservice hidle ((commitAllowed_iff s).2 hallowed)).trans
      (congrArg Host.Outcome.next (commit_of_passing hfailing r))
  have hcore := commitCore_handCommit r.order s.active (activate s)
  have hquiet := handCommit_of_no_takings s.active (activate s)
  obtain ⟨m, v, w, x, y, z, hsteps, hkept⟩ := handCommit_steps r.order s.active (activate s)
  obtain ⟨a, ha⟩ : ∃ a, activate s = a := ⟨_, rfl⟩
  have hactivated := ha.symm.trans (activate_eq s)
  rw [ha] at hexec hcore hquiet hsteps hkept
  obtain ⟨hactive, hmgtKept, hsys, hnow, hpending⟩ : _ ∧ _ ∧ _ ∧ _ ∧ _ := by
    simpa only [commitCore, Prod.mk.injEq] using hcore
  refine ⟨m, v, w, x, y, z, _, hexec, ?_⟩
  rw [ha]
  generalize s.mgt.shadow.retagged [] = t at hactivated ⊢
  subst hactivated
  refine ⟨⟨rfl, hactive, hmgtKept, hsys, handCommit_fre .., hnow, hpending, fun horder => ?_⟩, ⟨hsteps, hkept⟩,
    fun order old k t => ?_⟩
  · rw [horder]
    exact hquiet
  · exact congrArg (fun turn => (order.getD k []).foldl turn t) (funext fun t => funext fun b =>
      takeBetween_eq (fun d => by cases d <;> rfl) old k t b)

end Sys2Proof.Proofs
end
